-- ==== Sys2Proof/Word.lean ====
section
/-! DEFINITION. The words that cross the block's ports and fill its registers (R27, R51, R70, R73, R79), and the
ring capacity N (R5). -/

namespace Sys2Proof

/-- A command word of CMD or CTL: OP in bits 71..64, ARG in bits 63..0 (R73). -/
abbrev CmdWord := BitVec 72

/-- The OP field of a command word (R73). -/
abbrev OpCode := BitVec 8

/-- The ARG field of a command word (R73). -/
abbrev Arg := BitVec 64

/-- A sample word of SIN, SOUT or the ring buffer: one binary32 value (R51, R80). -/
abbrev Sample := BitVec 32

/-- An F register: one value of ARITH_FMT as its bit pattern. A binary32 instance uses the low 32 bits, the others
are zero (log 1). -/
abbrev FWord := BitVec 64

/-- A response word of RSP (R79). -/
abbrev RspWord := BitVec 32

/-- N, the ring capacity: 2^24 words (R5, R28). -/
abbrev ringSize : Nat := 16777216

end Sys2Proof
end

