-- ==== Sys2Proof/Syntax.lean ====
section
/-! DEFINITION. The commands of the block: one constructor per row of spec/opcode_table.json (R75), and the two command ports
(R70). -/

namespace Sys2Proof

/-- A command word port (R70). -/
inductive Port where
  | cmd
  | ctl
deriving DecidableEq, Repr

/-- A command. The operands are ARG's fields as they stand in the word (R74); `toArith` of the float form is taken when the
command executes, since it depends on ARITH_FMT. -/
inductive Instr where
  /-- FBK: ARG is a binary64 feedback value, any bit pattern (R130). -/
  | fbk (arg : Arg)
  /-- FRQ: ARG is a binary64 frequency in hertz, any bit pattern (R131). -/
  | frq (arg : Arg)
  /-- INIT: ARG[31:0] is the sample rate (R140). -/
  | init (sr : BitVec 32)
  /-- PROC: ARG[31:0] is the block length L (R100). -/
  | proc (len : BitVec 32)
  /-- TEARDOWN: no argument (R142). -/
  | teardown
deriving DecidableEq, Repr

/-- The one port each command is legal on (R75, R76). -/
def Instr.port : Instr → Port
  | .fbk _ => .ctl
  | .frq _ => .ctl
  | .init _ => .cmd
  | .proc _ => .cmd
  | .teardown => .cmd

end Sys2Proof
end

