-- ==== Sys2Proof/Decode.lean ====
section
/-! DEFINITION. The decoder of R78, total on every 72-bit word of either port and naming why it rejects, and after it the
encoder, written from the words of R83. -/

namespace Sys2Proof

/-- Why a word is an illegal command (R77). All three raise ILLEGAL_CMD. -/
inductive Illegal where
  /-- An OP that R75 does not list. -/
  | reservedOp
  /-- A legal OP on the other port (R76). -/
  | wrongPort
  /-- A nonzero must-be-zero bit of ARG (R74). -/
  | nonzeroMbz
deriving DecidableEq, Repr

/-- What a word decodes to: one command, or ILLEGAL_CMD with its reason. -/
inductive Decoded where
  | instr (i : Instr)
  | illegal (why : Illegal)
deriving DecidableEq, Repr

/-- OP, bits 71..64 (R73). -/
def CmdWord.op (w : CmdWord) : OpCode := w.extractLsb' 64 8

/-- ARG, bits 63..0 (R73). -/
def CmdWord.arg (w : CmdWord) : Arg := w.extractLsb' 0 64

/-- ARG[63:32], which the integer form requires to be zero (R74 b). -/
def Arg.high (a : Arg) : BitVec 32 := a.extractLsb' 32 32

/-- ARG[31:0], the integer form's value (R74 b). -/
def Arg.low (a : Arg) : BitVec 32 := a.extractLsb' 0 32

/-- A float command (R74 a): every ARG is legal. -/
def decodeFloatForm (p : Port) (mk : Arg → Instr) (a : Arg) : Decoded :=
  if p = .ctl then .instr (mk a) else .illegal .wrongPort

/-- An integer command (R74 b): ARG[63:32] must be zero. -/
def decodeIntForm (p : Port) (mk : BitVec 32 → Instr) (a : Arg) : Decoded :=
  if p = .cmd then
    if a.high = 0#32 then .instr (mk a.low) else .illegal .nonzeroMbz
  else .illegal .wrongPort

/-- A command without argument (R74 c): ARG must be zero. -/
def decodeNoArgForm (p : Port) (i : Instr) (a : Arg) : Decoded :=
  if p = .cmd then
    if a = 0#64 then .instr i else .illegal .nonzeroMbz
  else .illegal .wrongPort

/-- The decoder (R78): OP chooses the form, the form checks the port and the must-be-zero bits. -/
def decode (p : Port) (w : CmdWord) : Decoded :=
  let a := w.arg
  if w.op = 0x01#8 then decodeFloatForm p .fbk a
  else if w.op = 0x02#8 then decodeFloatForm p .frq a
  else if w.op = 0x10#8 then decodeIntForm p .init a
  else if w.op = 0x11#8 then decodeIntForm p .proc a
  else if w.op = 0x12#8 then decodeNoArgForm p .teardown a
  else .illegal .reservedOp

/-- The OP of a command (R75). -/
def Instr.opcode : Instr → OpCode
  | .fbk _ => 0x01#8
  | .frq _ => 0x02#8
  | .init _ => 0x10#8
  | .proc _ => 0x11#8
  | .teardown => 0x12#8

/-- The ARG of a command (R74, R83): the float's bits, the integer zero-extended, or zero. -/
def Instr.argument : Instr → Arg
  | .fbk a => a
  | .frq a => a
  | .init sr => sr.setWidth 64
  | .proc len => len.setWidth 64
  | .teardown => 0#64

/-- The encoder (R73, R83): OP ++ ARG. -/
def encode (i : Instr) : CmdWord := i.opcode ++ i.argument

/-- The mask of a command's row of spec/opcode_table.json. -/
def Instr.rowMask : Instr → CmdWord
  | .fbk _ => 0xFF0000000000000000#72
  | .frq _ => 0xFF0000000000000000#72
  | .init _ => 0xFFFFFFFFFF00000000#72
  | .proc _ => 0xFFFFFFFFFF00000000#72
  | .teardown => 0xFFFFFFFFFFFFFFFFFF#72

/-- The match of a command's row of spec/opcode_table.json. -/
def Instr.rowMatch : Instr → CmdWord
  | .fbk _ => 0x010000000000000000#72
  | .frq _ => 0x020000000000000000#72
  | .init _ => 0x100000000000000000#72
  | .proc _ => 0x110000000000000000#72
  | .teardown => 0x120000000000000000#72

/-- The 72-bit word whose low `nbits` bits are `w`'s and whose other bits are zero. -/
def tableWord (nbits w : Nat) : CmdWord := BitVec.ofNat 72 (w % 2 ^ nbits)

/-- The port a word of the opcode table stands on: CTL where the word is legal there, else CMD. -/
def tablePort (w : CmdWord) : Port :=
  match decode .ctl w with
  | .instr _ => .ctl
  | .illegal _ => .cmd

/-- The command the decoder reads from a word of the opcode table, on the port the command's row names. -/
def decodeTableWord (nbits w : Nat) : Option Instr :=
  match decode (tablePort (tableWord nbits w)) (tableWord nbits w) with
  | .instr i => some i
  | .illegal _ => none

end Sys2Proof
end

