-- ==== Sys2Proof/Config.lean ====
section
/-! DEFINITION. What an instance of the block fixes (the parameters of R5) and the free values: constants with no body, for
what the spec leaves open. -/

namespace Sys2Proof

/-- The two IEEE 754 formats of R8. SAMPLE_FMT is binary32; ARITH_FMT is either (D1). -/
inductive Fmt where
  | binary32
  | binary64
deriving DecidableEq, Repr

/-- SMOOTH_INIT (R34, D13). -/
inductive SmoothInit where
  | settled
  | zero
deriving DecidableEq, Repr

/-- The parameters of R5 that are not fixed numbers. Every F value is held as its bit pattern in `arithFmt`. R5's conditions on
them are `Params.valid` (Machine/Params.lean). -/
structure Params where
  /-- ARITH_FMT (D1). -/
  arithFmt : Fmt
  /-- FREQ_FLOOR (D15). -/
  freqFloor : FWord
  /-- SR_MAX (D17). R5 gives it no type: that it is a 32-bit unsigned word is a DESIGN CHOICE (log 20). -/
  srMax : BitVec 32
  /-- RESET_FEEDBACK_TARGET, OPEN (D12). -/
  resetFeedbackTarget : FWord
  /-- RESET_FREQUENCY_TARGET, OPEN (D12). -/
  resetFrequencyTarget : FWord
  /-- SMOOTH_INIT (D13). -/
  smoothInit : SmoothInit
deriving DecidableEq, Repr

/-- A free 64-bit value for each draw: the encodings of NaN results (I4) and the registers the spec leaves unspecified after
TEARDOWN and RST (I12, I14). Nothing constrains it (log 6, log 9, log 10). -/
opaque Config.freeBits : Nat → BitVec 64

/-- The `n`-th unspecified contents of the ring buffer, word by word (R28, R142, R180, N19). Nothing constrains it (log 4). -/
opaque Config.freeRingWord : Nat → Nat → Sample

/-- The OPEN parameter RESET_FEEDBACK_TARGET of the default instance before R5's condition is imposed (log 5). -/
opaque Config.openFeedbackTarget : FWord

/-- The OPEN parameter RESET_FREQUENCY_TARGET of the default instance before R5's condition is imposed (log 5). -/
opaque Config.openFrequencyTarget : FWord

end Sys2Proof
end

