-- ==== Sys2Proof/Machine/Memory.lean ====
section
/-! DEFINITION. The ring buffer as storage (R28, R50 to R57): its canonical form, and MemRead and MemWrite. -/

namespace Sys2Proof.Machine

/-- What a ring buffer word that no step has written since reads as: +0.0 after INIT's zero-fill (R53), or the `n`-th
unspecified contents after power-on reset or TEARDOWN (R28, R142). -/
inductive Fill where
  | zero
  | free (n : Nat)
deriving DecidableEq, Repr

/-- The ring buffer (R28, R50): what unlisted words read as, and the words that differ from it as (index, word) pairs,
indices strictly rising. -/
structure Memory where
  fill : Fill
  cells : List (Nat × Sample)
deriving DecidableEq, Repr

/-- What an unlisted word reads as (R28, R53; log 4). -/
def Memory.unlisted (m : Memory) (i : Nat) : Sample :=
  match m.fill with
  | .zero => 0#32
  | .free n => Config.freeRingWord n i

/-- The canonical form: strictly rising indices below N, and no entry equal to what the unlisted word reads as. -/
abbrev Memory.wf (m : Memory) : Prop :=
  m.cells.Pairwise (fun a b => a.1 < b.1) ∧ ∀ c ∈ m.cells, c.1 < ringSize ∧ c.2 ≠ m.unlisted c.1

/-- The word listed at an index, if one is. -/
def cellLookup (i : Nat) : List (Nat × Sample) → Option Sample
  | [] => none
  | c :: rest => if c.1 = i then some c.2 else cellLookup i rest

/-- The cells with the word at index `i` listed as `v`. -/
def cellInsert (i : Nat) (v : Sample) : List (Nat × Sample) → List (Nat × Sample)
  | [] => [(i, v)]
  | c :: rest =>
    if i < c.1 then (i, v) :: c :: rest
    else if i = c.1 then (i, v) :: rest
    else c :: cellInsert i v rest

/-- The cells with nothing listed at index `i`. -/
def cellErase (i : Nat) : List (Nat × Sample) → List (Nat × Sample)
  | [] => []
  | c :: rest => if c.1 = i then rest else c :: cellErase i rest

/-- The word at an index below N. -/
def Memory.readAt (m : Memory) (i : Nat) : Sample := (cellLookup i m.cells).getD (m.unlisted i)

/-- The memory with the word at an index below N set, kept canonical. -/
def Memory.writeAt (m : Memory) (i : Nat) (v : Sample) : Memory :=
  { m with cells := if v = m.unlisted i then cellErase i m.cells else cellInsert i v m.cells }

/-- The index an access reaches: `i mod N`, Euclidean (R7, R52, R56). -/
def ringIndex (i : Int) : Nat := (i % (ringSize : Int)).toNat

/-- MemRead(i, 1): RB[i mod N], with no side effect (R53). -/
def Memory.memRead (m : Memory) (i : Int) : Sample := m.readAt (ringIndex i)

/-- MemWrite(i, 1, v): RB[i mod N] <- v, every bit pattern stored as given (R52). -/
def Memory.memWrite (m : Memory) (i : Int) (v : Sample) : Memory := m.writeAt (ringIndex i) v

/-- The zero-filled ring buffer INIT leaves (R140, R182). -/
def Memory.zeroFilled : Memory := ⟨.zero, []⟩

end Sys2Proof.Machine
end

