-- ==== Sys2Proof/Machine/Float.lean ====
section
/-! DEFINITION. The IEEE 754 arithmetic of R8: binary32 and binary64, round to nearest with ties to even, one rounding per
operation, subnormals kept. Values are unpacked to a sign and an exact magnitude, computed on exactly, and rounded once. -/

namespace Sys2Proof

/-- A float value. A finite value's magnitude counts units of its format's least positive value, so every finite value of the
format is an exact whole number of units. -/
inductive FVal where
  | nan
  | inf (neg : Bool)
  | fin (neg : Bool) (mag : Nat)
deriving DecidableEq, Repr

/-- Significand bits, the implicit one included. -/
def Fmt.precision : Fmt → Nat
  | .binary32 => 24
  | .binary64 => 53

/-- Exponent field bits. -/
def Fmt.expBits : Fmt → Nat
  | .binary32 => 8
  | .binary64 => 11

/-- 1.0 is 2 to this power, in units of the least positive value. -/
def Fmt.unitLog : Fmt → Nat
  | .binary32 => 149
  | .binary64 => 1074

/-- The magnitude of 1.0. -/
def Fmt.one (f : Fmt) : Nat := 2 ^ f.unitLog

/-- Fraction field bits. -/
def Fmt.fracBits (f : Fmt) : Nat := f.precision - 1

/-- The bits below the sign: exponent and fraction. -/
def Fmt.magBits (f : Fmt) : Nat := f.expBits + f.fracBits

/-- The exponent field of infinities and NaNs, all ones. -/
def Fmt.expMax (f : Fmt) : Nat := 2 ^ f.expBits - 1

/-- The magnitude of the largest finite value. -/
def Fmt.maxMag (f : Fmt) : Nat := (2 ^ f.precision - 1) * 2 ^ (f.expMax - 2)

/-- The magnitude of exponent field `e` and fraction field `frac`, `e` not all ones: a zero exponent is a subnormal. -/
def Fmt.magOfFields (f : Fmt) (e frac : Nat) : Nat :=
  if e = 0 then frac else (2 ^ f.fracBits + frac) * 2 ^ (e - 1)

/-- The value of a bit pattern (R51, R74 a). -/
def Fmt.unpack (f : Fmt) (b : FWord) : FVal :=
  let neg := b.toNat / 2 ^ f.magBits % 2 == 1
  let e := b.toNat / 2 ^ f.fracBits % 2 ^ f.expBits
  let frac := b.toNat % 2 ^ f.fracBits
  if e = f.expMax then (if frac = 0 then .inf neg else .nan)
  else .fin neg (f.magOfFields e frac)

/-- The sign bit in its place. -/
def Fmt.signBits (f : Fmt) (neg : Bool) : Nat := if neg then 2 ^ f.magBits else 0

/-- Exponent and fraction fields of a finite magnitude of the format. -/
def Fmt.packMag (f : Fmt) (mag : Nat) : Nat :=
  let k := mag.log2 + 1 - f.precision
  k * 2 ^ f.fracBits + mag / 2 ^ k

/-- A NaN encoding made from free bits: every NaN encoding is some `raw`'s (I4). -/
def Fmt.nanBits (f : Fmt) (raw : BitVec 64) : FWord :=
  let neg := raw.toNat / 2 ^ f.magBits % 2 == 1
  let frac := raw.toNat % 2 ^ f.fracBits
  BitVec.ofNat 64 (f.signBits neg + f.expMax * 2 ^ f.fracBits + (if frac = 0 then 1 else frac))

/-- The bit pattern of a value; a NaN takes its encoding from `raw`. -/
def Fmt.pack (f : Fmt) (raw : BitVec 64) : FVal → FWord
  | .nan => f.nanBits raw
  | .inf neg => BitVec.ofNat 64 (f.signBits neg + f.expMax * 2 ^ f.fracBits)
  | .fin neg mag => BitVec.ofNat 64 (f.signBits neg + f.packMag mag)

/-- The bits of a pattern that the format has. -/
def Fmt.trim : Fmt → BitVec 64 → FWord
  | .binary32, b => (b.setWidth 32).setWidth 64
  | .binary64, b => b

/-- `num / den` rounded to the nearest whole number, ties to even. -/
def nearestEven (num den : Nat) : Nat :=
  if den < 2 * (num % den) ∨ (2 * (num % den) = den ∧ num / den % 2 = 1) then num / den + 1 else num / den

/-- The spacing of the format's values around a magnitude whose whole part is `t`, with no upper bound on the exponent. -/
def Fmt.quantum (f : Fmt) (t : Nat) : Nat := 2 ^ (t.log2 + 1 - f.precision)

/-- The magnitude `num / den`, in units, rounded to nearest with ties to even at the format's precision and with no upper
bound on the exponent (R8). -/
def Fmt.roundMag (f : Fmt) (num den : Nat) : Nat :=
  nearestEven num (den * f.quantum (num / den)) * f.quantum (num / den)

/-- The value of magnitude `num / den` units rounded once into the format; past the largest finite value it is infinite. -/
def Fmt.round (f : Fmt) (neg : Bool) (num den : Nat) : FVal :=
  if f.roundMag num den ≤ f.maxMag then .fin neg (f.roundMag num den) else .inf neg

/-- isFinite (R8). -/
def FVal.isFinite : FVal → Bool
  | .fin _ _ => true
  | _ => false

/-- The value with its sign flipped. -/
def FVal.neg : FVal → FVal
  | .nan => .nan
  | .inf s => .inf (!s)
  | .fin s m => .fin (!s) m

/-- `a + b` (R8). An exact zero sum of two values of opposite sign is +0. -/
def Fmt.add (f : Fmt) : FVal → FVal → FVal
  | .nan, _ => .nan
  | _, .nan => .nan
  | .inf s, .inf t => if s = t then .inf s else .nan
  | .inf s, .fin _ _ => .inf s
  | .fin _ _, .inf t => .inf t
  | .fin s m, .fin t n =>
    if s = t then f.round s (m + n) 1
    else if m = n then .fin false 0
    else if n < m then f.round s (m - n) 1
    else f.round t (n - m) 1

/-- `a − b` (R8). -/
def Fmt.sub (f : Fmt) (a b : FVal) : FVal := f.add a b.neg

/-- `a * b` (R8). Zero times infinity is NaN (R91 a, G4). -/
def Fmt.mul (f : Fmt) : FVal → FVal → FVal
  | .nan, _ => .nan
  | _, .nan => .nan
  | .inf s, .inf t => .inf (s != t)
  | .inf s, .fin t n => if n = 0 then .nan else .inf (s != t)
  | .fin s m, .inf t => if m = 0 then .nan else .inf (s != t)
  | .fin s m, .fin t n => f.round (s != t) (m * n) f.one

/-- `a / b` (R8). -/
def Fmt.div (f : Fmt) : FVal → FVal → FVal
  | .nan, _ => .nan
  | _, .nan => .nan
  | .inf _, .inf _ => .nan
  | .inf s, .fin t _ => .inf (s != t)
  | .fin s _, .inf t => .fin (s != t) 0
  | .fin s m, .fin t n =>
    if n = 0 then (if m = 0 then .nan else .inf (s != t))
    else f.round (s != t) (m * f.one) n

/-- A finite value as a signed count of units. -/
def signedMag (neg : Bool) (mag : Nat) : Int := if neg then -(mag : Int) else mag

/-- `a < b` (R8): false when either is a NaN; +0 and −0 are equal. -/
def FVal.lt : FVal → FVal → Bool
  | .nan, _ => false
  | _, .nan => false
  | .inf s, .inf t => s && !t
  | .inf s, .fin _ _ => s
  | .fin _ _, .inf t => !t
  | .fin s m, .fin t n => decide (signedMag s m < signedMag t n)

/-- A value of `src` in the format `dst`, rounded to nearest even; widening is exact (R8, G2, G8). -/
def Fmt.convert (src dst : Fmt) : FVal → FVal
  | .nan => .nan
  | .inf s => .inf s
  | .fin s m => if src = dst then .fin s m else dst.round s (m * dst.one) src.one

/-- `toF(n)` (R8). -/
def Fmt.ofInt (f : Fmt) (n : Int) : FVal := f.round (decide (n < 0)) (n.natAbs * f.one) 1

/-- `floor(x)` of a finite value (R7). -/
def Fmt.floorFin (f : Fmt) (neg : Bool) (mag : Nat) : Int :=
  if neg then -(((mag + f.one - 1) / f.one : Nat) : Int) else ((mag / f.one : Nat) : Int)

/-- `widen(s)`: a sample in the format F, exactly (R8). -/
def Fmt.widen (f : Fmt) (w : Sample) : FVal :=
  Fmt.convert .binary32 f (Fmt.unpack .binary32 (w.setWidth 64))

/-- The value `narrow(x)` has in binary32 (R8). -/
def Fmt.narrowVal (f : Fmt) (x : FVal) : FVal := Fmt.convert f .binary32 x

/-- `narrow(x)` as a sample word; a NaN takes its encoding from `raw` (R8, R109, I4). -/
def Fmt.narrow (f : Fmt) (raw : BitVec 64) (x : FVal) : Sample :=
  (Fmt.pack .binary32 raw (f.narrowVal x)).setWidth 32

/-- K_DN, the F value nearest 0.0001 (R5, D3). -/
def Fmt.kDn (f : Fmt) : FVal :=
  match f with
  | .binary32 => f.unpack 0x38D1B717#64
  | .binary64 => f.unpack 0x3F1A36E2EB1C432D#64

/-- K_DO, the F value nearest 0.9999 (R5, D3). -/
def Fmt.kDo (f : Fmt) : FVal :=
  match f with
  | .binary32 => f.unpack 0x3F7FF972#64
  | .binary64 => f.unpack 0x3FEFFF2E48E8A71E#64

/-- K_FN, the F value nearest 0.001 (R5, D3). -/
def Fmt.kFn (f : Fmt) : FVal :=
  match f with
  | .binary32 => f.unpack 0x3A83126F#64
  | .binary64 => f.unpack 0x3F50624DD2F1A9FC#64

/-- K_FO, the F value nearest 0.999 (R5, D3). -/
def Fmt.kFo (f : Fmt) : FVal :=
  match f with
  | .binary32 => f.unpack 0x3F7FBE77#64
  | .binary64 => f.unpack 0x3FEFF7CED916872B#64

/-- K_HALF, 0.5 (R5). -/
def Fmt.kHalf (f : Fmt) : FVal :=
  match f with
  | .binary32 => f.unpack 0x3F000000#64
  | .binary64 => f.unpack 0x3FE0000000000000#64

/-- K_ONE, 1.0 (R5). -/
def Fmt.kOne (f : Fmt) : FVal :=
  match f with
  | .binary32 => f.unpack 0x3F800000#64
  | .binary64 => f.unpack 0x3FF0000000000000#64

end Sys2Proof
end

