-- ==== Sys2Proof/Machine/Params.lean ====
section
/-! DEFINITION. R5's conditions on an instance's parameters, and the default instance. -/

namespace Sys2Proof

/-- The largest delay R5 allows: SR_MAX / FREQ_FLOOR ≤ 2^23 = N / 2. -/
def maxDelay : Nat := 8388608

/-- FREQ_FLOOR as a value. -/
def Params.floorVal (p : Params) : FVal := p.arithFmt.unpack p.freqFloor

/-- FREQ_FLOOR is positive and finite, and SR_MAX / FREQ_FLOOR ≤ 2^23 (R5). -/
def Params.floorValid (p : Params) : Bool :=
  match p.floorVal with
  | .fin false m => decide (0 < m) && decide (p.srMax.toNat * p.arithFmt.one ≤ maxDelay * m)
  | _ => false

/-- RESET_FREQUENCY_TARGET's condition: finite and not below FREQ_FLOOR (R5). -/
def Params.frequencyOk (p : Params) (b : FWord) : Bool :=
  (p.arithFmt.unpack b).isFinite && !(p.arithFmt.unpack b).lt p.floorVal

/-- R5's conditions on a whole set of parameters. -/
def Params.valid (p : Params) : Bool :=
  p.floorValid && (p.arithFmt.unpack p.resetFeedbackTarget).isFinite && p.frequencyOk p.resetFrequencyTarget

/-- R5's defaults, with the two OPEN targets at zero and at the floor. -/
def Params.base : Params where
  arithFmt := .binary64
  freqFloor := 0x3FF0000000000000#64
  srMax := 8388608#32
  resetFeedbackTarget := 0#64
  resetFrequencyTarget := 0x3FF0000000000000#64
  smoothInit := .settled

/-- The default instance: R5's defaults, and the two OPEN targets free, each kept to R5's condition on it (log 5). -/
def Params.standard : Params :=
  { Params.base with
    resetFeedbackTarget :=
      if (Fmt.unpack .binary64 Config.openFeedbackTarget).isFinite then Config.openFeedbackTarget
      else Params.base.resetFeedbackTarget
    resetFrequencyTarget :=
      if Params.base.frequencyOk Config.openFrequencyTarget then Config.openFrequencyTarget
      else Params.base.resetFrequencyTarget }

end Sys2Proof
end

