-- ==== Sys2Proof/Machine/State.lean ====
section
/-! DEFINITION. The state of the block (R20 to R33), the words in flight at its ports (R70), the schedule of its agents (R4,
R165), and the state after power-on reset (R180). -/

namespace Sys2Proof.Machine

/-- SESSION (R21). -/
inductive Session where
  | idle
  | running
  | terminated
deriving DecidableEq, Repr

/-- SEQ (R33). `init` and `drain` are passed through inside one step of the model and never stand between two. -/
inductive Seq where
  | ready
  | init
  | drain
  | sample
  | respond
deriving DecidableEq, Repr

/-- A mailbox slot: a pending bit and a value (R29, R30). -/
structure Slot where
  pending : Bool
  value : FWord
deriving DecidableEq, Repr

/-- The fault codes the block records (R150). Raising one is a next state, not a stop of the model. -/
inductive FaultCode where
  | illegalCmd
  | illegalState
  | initFail
  | hostShutdown
deriving DecidableEq, Repr

/-- Whose step comes next, or which asynchronous input is asserted (R4, R82, R162, R163). -/
inductive Turn where
  /-- The Engine: it accepts a CMD word, takes a sample step or responds. -/
  | engine
  /-- The Control agent: one CTL word is accepted. -/
  | control
  /-- The Host asserts SHUTDOWN. -/
  | shutdown
  /-- RST is asserted. -/
  | reset
deriving DecidableEq, Repr

/-- The machine: the architectural state of R20, the ports of R70, and the model's own fields. -/
structure State where
  /-- The parameters of this instance (R5). No step changes them (log 5). -/
  params : Params
  /-- SESSION (R21). -/
  session : Session
  /-- sampleRate (R22). -/
  sampleRate : BitVec 32
  /-- feedbackTarget (R23). -/
  feedbackTarget : FWord
  /-- smoothedFeedback (R24). -/
  smoothedFeedback : FWord
  /-- frequencyTarget (R25). -/
  frequencyTarget : FWord
  /-- smoothedDelaySamples (R26). -/
  smoothedDelaySamples : FWord
  /-- writePointer (R27). -/
  writePointer : BitVec 24
  /-- RB (R28). -/
  rb : Memory
  /-- MBX_FB (R29). -/
  mbxFb : Slot
  /-- MBX_FQ (R30). -/
  mbxFq : Slot
  /-- FAULT (R31). -/
  fault : BitVec 8
  /-- SEQ (R33). -/
  seq : Seq
  /-- L (R33). -/
  blockLen : BitVec 32
  /-- k (R33). -/
  blockDone : BitVec 32
  /-- Words offered on CMD and not yet accepted, oldest first (R70, R71). -/
  cmd : List CmdWord
  /-- Words offered on CTL and not yet accepted, oldest first (R70, R71). -/
  ctl : List CmdWord
  /-- Sample words offered on SIN and not yet taken, oldest first (R70, R80). -/
  sin : List Sample
  /-- Words delivered on RSP, oldest first (R79, R192). -/
  rsp : List RspWord
  /-- Words delivered on SOUT, oldest first (R80, R192). -/
  sout : List Sample
  /-- The coming turns of the agents and inputs, the next first (R61, R165; log 2). -/
  turns : List Turn
  /-- The counter the free values are drawn with (log 6). -/
  draws : Nat
deriving DecidableEq, Repr

/-- Why the model stops. Both are outside every run from reset: `State.Inv` (Safety.lean) rules them out. -/
inductive Fault where
  /-- Raised by an Engine turn that finds SEQ = INIT between two steps: R140 makes the whole of INIT one step, so no rule says
  how such a state goes on. Safe: the model stops where the spec says nothing (log 7). -/
  | initBetweenSteps
  /-- Raised by a sample step whose read position is infinite or NaN: RB.EVALUATE is defined for a finite position only (R91),
  and every position is finite by R115. Safe: the model stops where the spec says nothing (log 8). -/
  | ringPositionNotFinite
deriving DecidableEq, Repr

/-- Why the model gives an instruction no meaning. -/
inductive Refusal where
  /-- An arm of exec not yet modelled. No arm answers so: every command has its meaning. Safe. -/
  | notModelled (mnemonic : String)
deriving DecidableEq, Repr

/-- The outcome of a step of this machine. -/
abbrev Result := Host.Outcome State Fault Refusal

/-- The machine right after power-on reset (R180): IDLE, READY, no fault, both slots empty. The elements R180 leaves unspecified
hold zero (log 3), RB holds free contents (log 4), and the ports are quiet. -/
def State.reset : State where
  params := Params.standard
  session := .idle
  sampleRate := 0#32
  feedbackTarget := 0#64
  smoothedFeedback := 0#64
  frequencyTarget := 0#64
  smoothedDelaySamples := 0#64
  writePointer := 0#24
  rb := ⟨.free 0, []⟩
  mbxFb := ⟨false, 0#64⟩
  mbxFq := ⟨false, 0#64⟩
  fault := 0#8
  seq := .ready
  blockLen := 0#32
  blockDone := 0#32
  cmd := []
  ctl := []
  sin := []
  rsp := []
  sout := []
  turns := []
  draws := 1

end Sys2Proof.Machine
end

