-- ==== Sys2Proof/Machine/Ops.lean ====
section
/-! DEFINITION. The operations the commands share: accepting a word (R71), responding (R79), recording a fault (R155, the block's
one exception entry, R156), the shutdown event (R154), power-on reset (R180), and drawing free values. There is no return
from a fault (R158). -/

namespace Sys2Proof.Machine

/-- ARITH_FMT of this instance. -/
def State.fmt (s : State) : Fmt := s.params.arithFmt

/-- The value of an F register's bits in this instance. -/
def State.fval (s : State) (b : FWord) : FVal := s.fmt.unpack b

/-- CMD accepts a word: SESSION is not TERMINATED and SEQ is READY (R71). -/
def State.acceptsCmd (s : State) : Bool := s.session != .terminated && s.seq == .ready

/-- CTL accepts a word: SESSION is not TERMINATED, whatever else the block is doing (R71, R132). -/
def State.acceptsCtl (s : State) : Bool := s.session != .terminated

/-- The code of a fault (R150). -/
def FaultCode.code : FaultCode → BitVec 8
  | .illegalCmd => 0x01#8
  | .illegalState => 0x02#8
  | .initFail => 0x03#8
  | .hostShutdown => 0x04#8

/-- The response CODE OK / CONTINUE (R79). -/
def codeOk : BitVec 8 := 0x00#8

/-- The response CODE of a fault: 0x80 plus its code (R79, R157). -/
def FaultCode.response (c : FaultCode) : BitVec 8 := 0x80#8 + c.code

/-- The RSP word of a CODE: CODE in bits 7..0, zero above (R79). -/
def rspWord (code : BitVec 8) : RspWord := code.setWidth 32

/-- `respond(code)`: one word on RSP (R9, R79). -/
def State.respond (s : State) (code : BitVec 8) : State := { s with rsp := s.rsp ++ [rspWord code] }

/-- `raise Fault(c)`: FAULT keeps the first code recorded (R155). Nothing else is saved and no handler runs (R156). -/
def State.raise (s : State) (c : FaultCode) : State :=
  { s with fault := if s.fault = 0#8 then c.code else s.fault }

/-- A faulting CMD command: the record, and its response (R156, R157). -/
def State.faultCmd (s : State) (c : FaultCode) : State := (s.raise c).respond c.response

/-- The free value `k` places on from the draw counter (log 6). -/
def State.drawn (s : State) (k : Nat) : BitVec 64 := Config.freeBits (s.draws + k)

/-- The engine registers and RB keep no value a model may rely on (R142, R180): each becomes a free value (log 9, log 10). -/
def State.loseEngine (s : State) : State :=
  { s with
    sampleRate := (s.drawn 0).setWidth 32
    feedbackTarget := s.fmt.trim (s.drawn 1)
    smoothedFeedback := s.fmt.trim (s.drawn 2)
    frequencyTarget := s.fmt.trim (s.drawn 3)
    smoothedDelaySamples := s.fmt.trim (s.drawn 4)
    writePointer := (s.drawn 5).setWidth 24
    rb := ⟨.free s.draws, []⟩
    draws := s.draws + 6 }

/-- HOST_SHUTDOWN: the record, and SESSION <- TERMINATED (R154). -/
def State.shutdown (s : State) : State := { s.raise .hostShutdown with session := .terminated }

/-- Power-on reset, RST asserted (R180): IDLE, no fault, both pending bits clear, READY. Every other element of the block is
unspecified (log 10). The words at the ports and the schedule are the agents', not the block's. -/
def State.powerOn (s : State) : State :=
  let t := s.loseEngine
  { t with
    session := .idle
    fault := 0#8
    mbxFb := ⟨false, t.fmt.trim (t.drawn 0)⟩
    mbxFq := ⟨false, t.fmt.trim (t.drawn 1)⟩
    seq := .ready
    blockLen := (t.drawn 2).setWidth 32
    blockDone := (t.drawn 3).setWidth 32
    draws := t.draws + 4 }

end Sys2Proof.Machine
end

