-- ==== Sys2Proof/Machine/Ring.lean ====
section
/-! DEFINITION. The ring buffer operations RB.WRITE and RB.EVALUATE (R90, R91, R92). -/

namespace Sys2Proof.Machine

/-- RB.WRITE(index, value) (R90). -/
def Memory.rbWrite (m : Memory) (index : Int) (value : Sample) : Memory := m.memWrite index value

/-- The two-point interpolation of RB.EVALUATE at a finite position (R91): the words at floor(pos) and floor(pos) + 1, both read
even when a weight is zero (R92), each operation rounded once in F. -/
def Memory.interpolate (m : Memory) (f : Fmt) (neg : Bool) (mag : Nat) : FVal :=
  let i := f.floorFin neg mag
  let frac := f.sub (.fin neg mag) (f.ofInt i)
  let w0 := f.sub f.kOne frac
  let b0 := f.widen (m.memRead i)
  let b1 := f.widen (m.memRead (i + 1))
  f.add (f.mul w0 b0) (f.mul frac b1)

/-- RB.EVALUATE(pos) (R91). Its operand is a finite position; there is no value for any other (log 8). -/
def Memory.rbEvaluate (m : Memory) (f : Fmt) : FVal → Option FVal
  | .fin neg mag => some (m.interpolate f neg mag)
  | .inf _ => none
  | .nan => none

end Sys2Proof.Machine
end

