-- ==== Sys2Proof/Machine/Sample.lean ====
section
/-! DEFINITION. DRAIN (R101) and the sample step with its parts a to h (R102 to R110). -/

namespace Sys2Proof.Machine

/-- What a target holds after a drain of its slot (R101). -/
def Slot.drainInto (m : Slot) (target : FWord) : FWord := if m.pending then m.value else target

/-- A slot after a drain: pending bit 0, value kept (R29, R101). -/
def Slot.cleared (m : Slot) : Slot := { m with pending := false }

/-- DRAIN (R101): one atomic step. -/
def State.drain (s : State) : State :=
  { s with
    feedbackTarget := s.mbxFb.drainInto s.feedbackTarget
    frequencyTarget := s.mbxFq.drainInto s.frequencyTarget
    mbxFb := s.mbxFb.cleared
    mbxFq := s.mbxFq.cleared }

/-- fEff of step a: a frequency below FREQ_FLOOR is replaced by it; a NaN passes (R103). -/
def State.effectiveFrequency (s : State) : FVal :=
  let f := s.fval s.frequencyTarget
  if f.lt s.params.floorVal then s.params.floorVal else f

/-- Step a, TARGET_DELAY (R103). -/
def State.targetDelay (s : State) : FVal :=
  s.fmt.div (s.fmt.ofInt (s.sampleRate.toNat : Int)) s.effectiveFrequency

/-- One one-pole update in F (R104, R105): `kNew * target + kOld * old`. -/
def onePole (f : Fmt) (kNew kOld target old : FVal) : FVal := f.add (f.mul kNew target) (f.mul kOld old)

/-- The smoothed register after an update: it holds when the target or the new value is not finite (R104, R105, R160). The `0`
stands where a NaN's encoding would: no NaN is stored. -/
def smoothReg (f : Fmt) (kNew kOld target : FVal) (reg : FWord) : FWord :=
  let n := onePole f kNew kOld target (f.unpack reg)
  if target.isFinite && n.isFinite then f.pack 0 n else reg

/-- Step b, SMOOTH_DELAY (R104). -/
def State.smoothDelay (s : State) (td : FVal) : State :=
  { s with smoothedDelaySamples := smoothReg s.fmt s.fmt.kDn s.fmt.kDo td s.smoothedDelaySamples }

/-- Step c, SMOOTH_FEEDBACK (R105). -/
def State.smoothFeedback (s : State) : State :=
  { s with smoothedFeedback := smoothReg s.fmt s.fmt.kFn s.fmt.kFo (s.fval s.feedbackTarget) s.smoothedFeedback }

/-- Step d, READ_POSITION (R106): one conditional addition of N. -/
def State.readPosition (s : State) : FVal :=
  let rp := s.fmt.sub (s.fmt.ofInt (s.writePointer.toNat : Int)) (s.fval s.smoothedDelaySamples)
  if rp.lt (.fin false 0) then s.fmt.add rp (s.fmt.ofInt (ringSize : Int)) else rp

/-- Step e, TAP (R107): the average of two evaluations one position apart, both kept. -/
def State.tap (s : State) (rp : FVal) : Option FVal :=
  match s.rb.rbEvaluate s.fmt rp, s.rb.rbEvaluate s.fmt (s.fmt.add rp s.fmt.kOne) with
  | some e1, some e2 => some (s.fmt.add (s.fmt.mul s.fmt.kHalf e1) (s.fmt.mul s.fmt.kHalf e2))
  | _, _ => none

/-- Step f, MIX (R108). -/
def State.mix (s : State) (xF tap : FVal) : FVal := s.fmt.add xF (s.fmt.mul (s.fval s.smoothedFeedback) tap)

/-- The word step g stores and delivers (R109); a NaN takes a fresh draw (I4). -/
def State.outputWord (s : State) (o : FVal) : Sample := s.fmt.narrow (s.drawn 0) o

/-- Step g, WRITEBACK (R109). -/
def State.writeback (s : State) (y : Sample) : State :=
  { s with rb := s.rb.rbWrite (s.writePointer.toNat : Int) y, draws := s.draws + 1 }

/-- Step h, ADVANCE (R110): the 24-bit register wraps from N − 1 to 0. -/
def State.advance (s : State) : State := { s with writePointer := s.writePointer + 1#24 }

/-- Steps a to c: the state with both smoothed registers updated (R186). -/
def State.smoothed (s : State) : State := (s.smoothDelay s.targetDelay).smoothFeedback

/-- The word a sample step makes from the input word `x` in a state already smoothed: steps d to g (R106 to R109). None when
the read position is not finite (log 8). -/
def State.sampleWord (s : State) (x : Sample) : Option Sample :=
  (s.tap s.readPosition).map fun tap => s.outputWord (s.mix (s.fmt.widen x) tap)

/-- `in.take()` and `out.put(y)`: one SIN word consumed, one SOUT word delivered (R9, R70). -/
def State.transfer (s : State) (rest : List Sample) (y : Sample) : State :=
  { s with sin := rest, sout := s.sout ++ [y] }

/-- SEQ inside the block loop: SAMPLE while k < L, then RESPOND (R33, R100). -/
def loopSeq (len done : BitVec 32) : Seq := if done < len then .sample else .respond

/-- `k <- k + 1`, and the loop's test (R100). -/
def State.countSample (s : State) : State :=
  { s with blockDone := s.blockDone + 1#32, seq := loopSeq s.blockLen (s.blockDone + 1#32) }

/-- SAMPLE_STEP (R102), one atomic step, with the loop's count (R100). It holds while no SIN word is offered. -/
def State.sampleStep (s : State) : Result :=
  match s.sin with
  | [] => .next s
  | x :: rest =>
    match s.smoothed.sampleWord x with
    | none => .fault .ringPositionNotFinite
    | some y => .next (((s.smoothed.writeback y).advance.transfer rest y).countSample)

end Sys2Proof.Machine
end

