-- ==== Sys2Proof/Machine/Block.lean ====
section
/-! DEFINITION. The block command PROC (R100): its acceptance with DRAIN, and its response. The sample steps between them are
Machine/Sample.lean's (R163). -/

namespace Sys2Proof.Machine

/-- An accepted PROC's first step: L and k set, the mailbox drained, SEQ in the loop (R100, R101, R163). -/
def State.beginBlock (s : State) (len : BitVec 32) : State :=
  { s.drain with blockLen := len, blockDone := 0#32, seq := loopSeq len 0#32 }

/-- A block's last step: CONTINUE, and READY (R100, R111). -/
def State.endBlock (s : State) : State := { s.respond codeOk with seq := .ready }

/-- PROC L (R100): ILLEGAL_STATE outside RUNNING, with no drain and no sample (R152); else the block begins. A word CMD does
not accept changes nothing (R71). -/
def execProc (len : BitVec 32) (s : State) : Result :=
  if s.acceptsCmd then
    if s.session ≠ .running then .next (s.faultCmd .illegalState) else .next (s.beginBlock len)
  else .next s

end Sys2Proof.Machine
end

