-- ==== Sys2Proof/Machine/Operands.lean ====
section
/-! DEFINITION. The operand forms of R74. The integer form's value is ARG[31:0] as it stands, and TEARDOWN has none; the float form's
value is `toArith(ARG)`. -/

namespace Sys2Proof.Machine

/-- `toArith(ARG)` (R74 a): the binary64 pattern itself when F is binary64; rounded to nearest even to binary32 when F is
binary32, where a NaN's encoding is free (I4). -/
def toArith (f : Fmt) (raw : BitVec 64) (a : Arg) : FWord :=
  match f with
  | .binary64 => a
  | .binary32 => Fmt.pack .binary32 raw (Fmt.convert .binary64 .binary32 (Fmt.unpack .binary64 a))

/-- The value of a float command's operand in this instance (R74 a, R130, R131). -/
def State.floatOperand (s : State) (a : Arg) : FWord := toArith s.fmt (s.drawn 0) a

/-- An integer operand in F, `toF(n)` (R8, R74 b). -/
def State.intOperand (s : State) (n : BitVec 32) : FVal := s.fmt.ofInt (n.toNat : Int)

end Sys2Proof.Machine
end

