-- ==== Sys2Proof/Machine/Channel.lean ====
section
/-! DEFINITION. The parameter channel commands FBK and FRQ (R130 to R135). -/

namespace Sys2Proof.Machine

/-- A message in a slot (R29, R30): a later one replaces it (R60). -/
def messageSlot (v : FWord) : Slot := ⟨true, v⟩

/-- MBX_FB <- (1, toArith(ARG)) (R130). The draw is there for a NaN's encoding in a binary32 instance (log 6). -/
def State.fillFb (s : State) (arg : Arg) : State :=
  { s with mbxFb := messageSlot (s.floatOperand arg), draws := s.draws + 1 }

/-- MBX_FQ <- (1, toArith(ARG)) (R131). -/
def State.fillFq (s : State) (arg : Arg) : State :=
  { s with mbxFq := messageSlot (s.floatOperand arg), draws := s.draws + 1 }

/-- FBK v (R130): MBX_FB <- (1, v). In TERMINATED the port accepts nothing and nothing changes (R132). -/
def execFbk (arg : Arg) (s : State) : Result :=
  if s.acceptsCtl then .next (s.fillFb arg) else .next s

/-- FRQ v (R131): MBX_FQ <- (1, v). In TERMINATED the port accepts nothing and nothing changes (R132). -/
def execFrq (arg : Arg) (s : State) : Result :=
  if s.acceptsCtl then .next (s.fillFq arg) else .next s

end Sys2Proof.Machine
end

