-- ==== Sys2Proof/Machine/Session.lean ====
section
/-! DEFINITION. The session commands INIT and TEARDOWN (R140 to R144). -/

namespace Sys2Proof.Machine

/-- INIT accepts this sample rate: 1 ≤ sr ≤ SR_MAX (R22, R141). -/
def State.rateOk (s : State) (sr : BitVec 32) : Bool := decide (1#32 ≤ sr) && decide (sr ≤ s.params.srMax)

/-- smoothedFeedback at the start of a session (R34). -/
def State.initialFeedback (s : State) : FWord :=
  match s.params.smoothInit with
  | .settled => s.params.resetFeedbackTarget
  | .zero => 0#64

/-- smoothedDelaySamples at the start of a session (R34). The free value stands where a NaN's encoding would be, which R5's
conditions on the parameters exclude. -/
def State.initialDelay (s : State) (sr : BitVec 32) : FWord :=
  match s.params.smoothInit with
  | .settled => s.fmt.pack (s.drawn 0) (s.fmt.div (s.intOperand sr) (s.fval s.params.resetFrequencyTarget))
  | .zero => 0#64

/-- The session INIT constructs (R140, R182). -/
def State.startSession (s : State) (sr : BitVec 32) : State :=
  { s with
    rb := Memory.zeroFilled
    sampleRate := sr
    writePointer := 0#24
    feedbackTarget := s.params.resetFeedbackTarget
    frequencyTarget := s.params.resetFrequencyTarget
    smoothedFeedback := s.initialFeedback
    smoothedDelaySamples := s.initialDelay sr
    fault := 0#8
    session := .running
    draws := s.draws + 1 }

/-- INIT sr (R140): ILLEGAL_STATE outside IDLE, INIT_FAIL for a rate out of range, else a new session, in one step. A word CMD does
not accept changes nothing (R71). -/
def execInit (sr : BitVec 32) (s : State) : Result :=
  if s.acceptsCmd then
    if s.session ≠ .idle then .next (s.faultCmd .illegalState)
    else if s.rateOk sr then .next ((s.startSession sr).respond codeOk)
    else .next (s.faultCmd .initFail)
  else .next s

/-- SESSION <- IDLE, and the engine registers and RB keep no value (R142; log 9). -/
def State.endSession (s : State) : State := { s.loseEngine with session := .idle }

/-- TEARDOWN (R142): ILLEGAL_STATE outside RUNNING, else the session ends. A word CMD does not accept changes nothing (R71). -/
def execTeardown (s : State) : Result :=
  if s.acceptsCmd then
    if s.session ≠ .running then .next (s.faultCmd .illegalState)
    else .next (s.endSession.respond codeOk)
  else .next s

end Sys2Proof.Machine
end

