-- ==== Sys2Proof/Machine/Dispatch.lean ====
section
/-! DEFINITION. One arm per command: the meaning it has. -/

namespace Sys2Proof.Machine

def exec (i : Instr) (s : State) : Host.Outcome State Fault Refusal :=
  match i with
  | .fbk arg => Sys2Proof.Machine.execFbk arg s
  | .frq arg => Sys2Proof.Machine.execFrq arg s
  | .init sr => Sys2Proof.Machine.execInit sr s
  | .proc len => Sys2Proof.Machine.execProc len s
  | .teardown => Sys2Proof.Machine.execTeardown s

end Sys2Proof.Machine
end

