-- ==== Sys2Proof/Machine/Flags.lean ====
section
/-! DEFINITION. STATUS, the block's one status word (R32, R81). The block has no condition flags (R35) and no numeric event sets a status
bit (R160), so there is no flag computation but this view. -/

namespace Sys2Proof.Machine

/-- STATUS.STATE (R21, R32). -/
def Session.code : Session → BitVec 2
  | .idle => 0#2
  | .running => 1#2
  | .terminated => 2#2

/-- STATUS.BUSY: a host command is being executed (R32). -/
def State.busy (s : State) : Bool := s.seq != .ready

/-- STATUS (R32): STATE in [1:0], BUSY [2], FB_PEND [3], FQ_PEND [4], FAULT [15:8], the rest zero. -/
def State.status (s : State) : BitVec 32 :=
  0#16 ++ s.fault ++ 0#3 ++ BitVec.ofBool s.mbxFq.pending ++ BitVec.ofBool s.mbxFb.pending ++ BitVec.ofBool s.busy ++
    s.session.code

end Sys2Proof.Machine
end

