-- ==== Sys2Proof/Machine/Agents.lean ====
section
/-! DEFINITION. The turns of the agents (R4, R163, R165): the Control agent's, in which CTL accepts one word; the Engine's, in which
CMD accepts one word or the block in progress takes one step; and the inputs SHUTDOWN and RST. -/

namespace Sys2Proof.Machine

/-- An accepted word's step on either port: the decoded command, or ILLEGAL_CMD with nothing changed but FAULT (R77, R78, R151), which
CMD answers and CTL does not (R133, R157). -/
def State.runWord (s : State) (p : Port) (w : CmdWord) : Result :=
  match decode p w with
  | .instr i => exec i s
  | .illegal _ =>
    match p with
    | .cmd => .next (s.faultCmd .illegalCmd)
    | .ctl => .next (s.raise .illegalCmd)

/-- The words on offer on CTL are now `rest`. -/
def State.takeCtl (s : State) (rest : List CmdWord) : State := { s with ctl := rest }

/-- The words on offer on CMD are now `rest`. -/
def State.takeCmd (s : State) (rest : List CmdWord) : State := { s with cmd := rest }

/-- The Control agent's turn: CTL accepts the oldest word offered, unless the session is terminated (R71, R132). -/
def State.controlStep (s : State) : Result :=
  match s.ctl with
  | [] => .next s
  | w :: rest => if s.acceptsCtl then (s.takeCtl rest).runWord .ctl w else .next s

/-- The Engine's turn with SEQ = READY: CMD accepts the oldest word offered (R71, R143). -/
def State.acceptStep (s : State) : Result :=
  match s.cmd with
  | [] => .next s
  | w :: rest => if s.acceptsCmd then (s.takeCmd rest).runWord .cmd w else .next s

/-- The DRAIN of a block found between its acceptance and its loop (log 13). -/
def State.resumeDrain (s : State) : State := { s.drain with seq := loopSeq s.blockLen s.blockDone }

/-- The Engine's turn (R100, R163). In TERMINATED it takes no step (R154). -/
def State.engineStep (s : State) : Result :=
  if s.session = .terminated then .next s
  else
    match s.seq with
    | .ready => s.acceptStep
    | .init => .fault .initBetweenSteps
    | .drain => .next s.resumeDrain
    | .sample => if s.blockDone < s.blockLen then s.sampleStep else .next s.endBlock
    | .respond => .next s.endBlock

/-- Whose turn is next: the schedule's, and when it names none, the Control agent while a CTL word is offered, else the Engine
(log 2). -/
def State.turn (s : State) : Turn :=
  match s.turns with
  | t :: _ => t
  | [] => if s.ctl.isEmpty then .engine else .control

/-- The schedule without the turn now taken. -/
def State.passTurn (s : State) : State := { s with turns := s.turns.tail }

/-- One turn. -/
def State.takeTurn (s : State) : Turn → Result
  | .engine => s.engineStep
  | .control => s.controlStep
  | .shutdown => .next s.shutdown
  | .reset => .next s.powerOn

/-- The word offered on CTL, its acceptance the very next turn. -/
def State.offerCtl (s : State) (w : CmdWord) : State := { s with ctl := w :: s.ctl, turns := .control :: s.turns }

/-- The word offered on CMD with SEQ READY, its acceptance the very next turn. -/
def State.offerCmd (s : State) (w : CmdWord) : State :=
  { s with cmd := w :: s.cmd, seq := .ready, turns := .engine :: s.turns }

/-- The word placed on the port its row of the opcode table names, in a block that accepts words. -/
def State.offer (s : State) (w : CmdWord) : State :=
  let s := if s.session = .terminated then { s with session := .idle } else s
  match tablePort w with
  | .ctl => s.offerCtl w
  | .cmd => s.offerCmd w

end Sys2Proof.Machine
end

