-- ==== Sys2Proof/Machine/Step.lean ====
section
/-! DEFINITION. One step of the machine (R163), and a command word placed where the next step accepts it. -/

namespace Sys2Proof.Machine

/-- One step: the agent or input whose turn it is moves. An agent with nothing to do holds, and the state but for the schedule
stays (R9, R10). -/
def step (s : State) : Host.Outcome State Fault Refusal := s.passTurn.takeTurn s.turn

/-- `s` with the word of `nbits` bits `w` offered on its port, to be accepted by the very next step (log 12). -/
def State.withFetchWord (s : State) (nbits w : Nat) : State := s.offer (tableWord nbits w)

end Sys2Proof.Machine
end

