-- ==== Sys2Proof/Machine/Assembler.lean ====
section
/-! DEFINITION. The assembler notation of R83 and the program notation of R84: literals, lines, the words they stand for, and a listing
run line by line. It is notation over the machine, not state of it (D33). -/

namespace Sys2Proof.Machine

/-- A floating-point literal of R83. A decimal is `digits × 10^(up − down)` with a sign. -/
inductive FloatLit where
  | decimal (neg : Bool) (digits up down : Nat)
  | infinity (neg : Bool)
  | nan
  | bits (b : BitVec 64)
deriving DecidableEq, Repr

/-- The binary64 pattern a literal denotes: the nearest value, ties to even; the quiet NaN of R83 for `nan`. -/
def FloatLit.arg : FloatLit → Arg
  | .decimal neg digits up down =>
    Fmt.pack .binary64 0 (Fmt.round .binary64 neg (digits * 10 ^ up * Fmt.one .binary64) (10 ^ down))
  | .infinity neg => Fmt.pack .binary64 0 (.inf neg)
  | .nan => 0x7FF8000000000000#64
  | .bits b => b

/-- The value of a digit character, decimal or hexadecimal. -/
def digitValue (c : Char) : Nat :=
  if '0' ≤ c ∧ c ≤ '9' then c.toNat - 48 else if 'a' ≤ c ∧ c ≤ 'f' then c.toNat - 87 else 16

/-- The longest run of digits of a base at the front: its value, its length, and the characters after it. -/
def takeDigits (base : Nat) : Nat → Nat → List Char → Nat × Nat × List Char
  | acc, len, [] => (acc, len, [])
  | acc, len, c :: rest =>
    if digitValue c < base then takeDigits base (acc * base + digitValue c) (len + 1) rest else (acc, len, c :: rest)

/-- A nonempty run of digits that is the whole text. -/
def wholeNumber (base : Nat) (t : List Char) : Option Nat :=
  match takeDigits base 0 0 t with
  | (v, len, []) => if len = 0 then none else some v
  | _ => none

/-- A `<u32>` of R83: decimal or `0x` hexadecimal, below 2^32. -/
def parseU32 (t : List Char) : Option (BitVec 32) :=
  let n := match t with
    | '0' :: 'x' :: hex => wholeNumber 16 hex
    | _ => wholeNumber 10 t
  n.bind fun v => if v < 2 ^ 32 then some (BitVec.ofNat 32 v) else none

/-- The exponent part of a decimal, with `scale` digits after the point already read. -/
def parseExponent (neg : Bool) (digits scale : Nat) : List Char → Option FloatLit
  | [] => some (.decimal neg digits 0 scale)
  | 'e' :: '-' :: t => (wholeNumber 10 t).map fun e => .decimal neg digits 0 (scale + e)
  | 'e' :: '+' :: t => (wholeNumber 10 t).map fun e => .decimal neg digits e scale
  | 'e' :: t => (wholeNumber 10 t).map fun e => .decimal neg digits e scale
  | _ => none

/-- An unsigned decimal literal: digits, with a point among them, before them or after them, and then an exponent, if any. R83 gives a
decimal literal no grammar. DESIGN CHOICE (log 18). -/
def parseDecimal (neg : Bool) (t : List Char) : Option FloatLit :=
  match takeDigits 10 0 0 t with
  | (whole, len, '.' :: t') =>
    match takeDigits 10 whole 0 t' with
    | (digits, scale, t'') => if len + scale = 0 then none else parseExponent neg digits scale t''
  | (whole, len, t') => if len = 0 then none else parseExponent neg whole 0 t'

/-- A `<float>` of R83. A decimal literal may begin with `-` or with `+`: R83 gives it no grammar. DESIGN CHOICE (log 18). -/
def parseFloat : List Char → Option FloatLit
  | ['i', 'n', 'f'] => some (.infinity false)
  | ['-', 'i', 'n', 'f'] => some (.infinity true)
  | ['n', 'a', 'n'] => some .nan
  | 'b' :: 'i' :: 't' :: 's' :: ':' :: '0' :: 'x' :: hex =>
    if hex.length = 16 then (wholeNumber 16 hex).map fun v => .bits (BitVec.ofNat 64 v) else none
  | '-' :: t => parseDecimal true t
  | '+' :: t => parseDecimal false t
  | t => parseDecimal false t

/-- One line of a listing: a command of R83, or a form of R84. -/
inductive Line where
  | command (i : Instr)
  | params (freq fb : Arg)
  | run (samples : List Arg)
  | shutdown
  | reset
deriving DecidableEq, Repr

/-- What a line of text is. -/
inductive ParsedLine where
  | blank
  | line (l : Line)
  | malformed
deriving DecidableEq, Repr

/-- A line without its comment (R83). -/
def dropComment : List Char → List Char
  | [] => []
  | c :: rest => if c = ';' then [] else c :: dropComment rest

/-- The words of a line in lower case, split at blanks; a comma and the brackets of RUN stand alone. `cur` holds the word being
read, last character first. R83 calls mnemonics case-insensitive and says nothing of the case of a literal: that a literal is read
in either case too (`INF`, `NaN`, `BITS:0X…`, `0XBB80`) is a DESIGN CHOICE (log 18). -/
def splitWords : List Char → List Char → List (List Char)
  | cur, [] => if cur.isEmpty then [] else [cur.reverse]
  | cur, c :: rest =>
    let done := if cur.isEmpty then [] else [cur.reverse]
    if c = ' ' ∨ c = '\t' then done ++ splitWords [] rest
    else if c = ',' ∨ c = '[' ∨ c = ']' then done ++ [c] :: splitWords [] rest
    else splitWords (c.toLower :: cur) rest

/-- The literals of a RUN list up to its closing bracket, which ends the line. -/
def parseSamples : List (List Char) → Option (List Arg)
  | [x, [']']] => (parseFloat x).map fun l => [l.arg]
  | x :: [','] :: rest => (parseFloat x).bind fun l => (parseSamples rest).map fun t => l.arg :: t
  | _ => none

/-- The line a list of words stands for (R83, R84). -/
def parseWords : List (List Char) → Option Line
  | [['f', 'b', 'k'], x] => (parseFloat x).map fun l => .command (.fbk l.arg)
  | [['f', 'r', 'q'], x] => (parseFloat x).map fun l => .command (.frq l.arg)
  | [['i', 'n', 'i', 't'], n] => (parseU32 n).map fun v => .command (.init v)
  | [['p', 'r', 'o', 'c'], n] => (parseU32 n).map fun v => .command (.proc v)
  | [['t', 'e', 'a', 'r', 'd', 'o', 'w', 'n']] => some (.command .teardown)
  | [['p', 'a', 'r', 'a', 'm', 's'], f, [','], g] =>
    (parseFloat f).bind fun lf => (parseFloat g).map fun lg => .params lf.arg lg.arg
  | ['r', 'u', 'n'] :: ['['] :: rest => (parseSamples rest).map .run
  | [['s', 'h', 'u', 't', 'd', 'o', 'w', 'n']] => some .shutdown
  | [['r', 'e', 's', 'e', 't']] => some .reset
  | _ => none

/-- One line of assembler text (R83). -/
def parseLine (t : List Char) : ParsedLine :=
  match splitWords [] (dropComment t) with
  | [] => .blank
  | ws =>
    match parseWords ws with
    | some l => .line l
    | none => .malformed

/-- A literal's sample word, `narrow(x)` (R84); a NaN's encoding is free. -/
def literalSample (raw : BitVec 64) (x : Arg) : Sample := Fmt.narrow .binary64 raw (Fmt.unpack .binary64 x)

/-- The line put before the machine: its words on their ports, or its input asserted (R84). -/
def Line.offer (l : Line) (s : State) : State :=
  match l with
  | .command i =>
    match i.port with
    | .ctl => { s with ctl := s.ctl ++ [encode i] }
    | .cmd => { s with cmd := s.cmd ++ [encode i] }
  | .params freq fb => { s with ctl := s.ctl ++ [encode (.frq freq), encode (.fbk fb)] }
  | .run xs =>
    { s with
      cmd := s.cmd ++ [encode (.proc (BitVec.ofNat 32 xs.length))]
      sin := s.sin ++ xs.mapIdx fun k x => literalSample (s.drawn k) x
      draws := s.draws + xs.length }
  | .shutdown => { s with turns := .shutdown :: s.turns }
  | .reset => { s with turns := .reset :: s.turns }

/-- Steps enough for the line to be accepted and answered. Further steps hold. -/
def Line.steps : Line → Nat
  | .command (.proc len) => len.toNat + 2
  | .command _ => 1
  | .params _ _ => 2
  | .run xs => xs.length + 2
  | .shutdown => 1
  | .reset => 1

/-- The line is an asynchronous input, which waits for nothing (R162). -/
def Line.isInput : Line → Bool
  | .shutdown => true
  | .reset => true
  | _ => false

/-- No command is in progress and no command word is waiting (R192 a). -/
def State.settled (s : State) : Bool := s.seq == .ready && s.cmd.isEmpty && s.ctl.isEmpty

/-- `n` steps. -/
def runSteps : Nat → State → Result
  | 0, s => .next s
  | n + 1, s =>
    match step s with
    | .next t => runSteps n t
    | .fault r => .fault r
    | .refused r => .refused r

/-- A listing run in the order written (R84): each line waits until the one before it is answered, and a listing whose line is never
answered ends there, held (R192 c). SHUTDOWN and RESET do not wait. After a RESET a word offered before it and never accepted is still
on offer, and the next line that waits ends the listing there, although further steps would accept that word: the spec leaves such
runs open. DESIGN CHOICE (log 18). -/
def runListing : List Line → State → Result
  | [], s => .next s
  | l :: rest, s =>
    if l.isInput || s.settled then
      match runSteps l.steps (l.offer s) with
      | .next t => runListing rest t
      | .fault r => .fault r
      | .refused r => .refused r
    else .next s

end Sys2Proof.Machine
end

