-- ==== Sys2Proof/WellFormed.lean ====
section
/-! DEFINITION. When a command is well formed on a port. The operand fields carry their widths in their types, so the one
check left is R76's: which port the command stands on. -/

namespace Sys2Proof

/-- `i` is a legal command of port `p` (R76): FBK and FRQ only on CTL; INIT, PROC and TEARDOWN only on CMD. -/
def Instr.wellFormedOn (p : Port) (i : Instr) : Bool := i.port == p

end Sys2Proof
end

