-- ==== Sys2Proof/Safety.lean ====
section
/-! DEFINITION. What claims are stated in: the invariant of the machine, how a run ends (R192), the history of a session (R95), the
source's message queue (R66), and when a magnitude is a float's. -/

namespace Sys2Proof

/-- A magnitude some finite significand of the format's precision has, the exponent unbounded above. -/
def Fmt.Representable (f : Fmt) (m : Nat) : Prop := ∃ k e : Nat, k < 2 ^ f.precision ∧ m = k * 2 ^ e

/-- A value of the format: not finite, or a representable magnitude not past the largest. -/
def Fmt.IsValue (f : Fmt) : FVal → Prop
  | .fin _ m => f.Representable m ∧ m ≤ f.maxMag
  | _ => True

/-- The pattern holds no bit the format does not have. -/
def Fmt.Fits (f : Fmt) (b : FWord) : Prop := f.trim b = b

/-- Not a NaN. -/
def FVal.isNumber : FVal → Bool
  | .nan => false
  | _ => true

/-- The binary32 value of a sample word (R51). -/
def sampleVal (w : Sample) : FVal := Fmt.unpack .binary32 (w.setWidth 64)

/-- The two sample words carry the same value: the same bits, or a NaN each (R113). -/
def SameSample (v w : Sample) : Prop := v = w ∨ (sampleVal v = .nan ∧ sampleVal w = .nan)

namespace Machine

/-- smoothedDelaySamples is finite, not negative and at most 2^23 (R26, R115). -/
def State.DelayInRange (s : State) : Prop :=
  ∃ m, s.fval s.smoothedDelaySamples = .fin false m ∧ m ≤ maxDelay * s.fmt.one

/-- What every step keeps. Its clauses hold in every state a run from reset reaches. -/
structure State.Inv (s : State) : Prop where
  /-- The instance's parameters meet R5. -/
  paramsValid : s.params.valid = true
  /-- The ring buffer's list is canonical. -/
  ringWf : s.rb.wf
  /-- FAULT holds no code but R150's. -/
  faultCode : s.fault ≤ 0x04#8
  /-- SEQ is never INIT or DRAIN between two steps (R140, R163). -/
  seqBetween : s.seq ≠ .init ∧ s.seq ≠ .drain
  /-- A block is in progress only inside a session, or where a shutdown cut it (R152, R154). -/
  blockInSession : s.seq ≠ .ready → s.session ≠ .idle
  /-- SAMPLE: samples are left to do (R100). -/
  loopOpen : s.seq = .sample → s.blockDone < s.blockLen
  /-- RESPOND: none is left (R100). -/
  loopClosed : s.seq = .respond → s.blockDone = s.blockLen
  /-- TERMINATED has its fault recorded (R154, R155). -/
  shutdownRecorded : s.session = .terminated → s.fault ≠ 0x00#8
  /-- A session's sample rate is in range (R22, R141). -/
  rateInRange : s.session = .running → 1#32 ≤ s.sampleRate ∧ s.sampleRate ≤ s.params.srMax
  /-- A session's ring buffer was zero-filled (R28, R53). -/
  ringFilled : s.session = .running → s.rb.fill = .zero
  /-- smoothedFeedback is finite in a session (R24). -/
  feedbackFinite : s.session = .running → (s.fval s.smoothedFeedback).isFinite = true
  /-- smoothedDelaySamples is in range in a session (R26, R115). -/
  delayInRange : s.session = .running → s.DelayInRange

/-- A run's normal end (R192 a). -/
def State.Quiescent (s : State) : Prop :=
  s.seq = .ready ∧ s.cmd = [] ∧ s.ctl = [] ∧ s.session ≠ .terminated

/-- `ys` are the samples the session has delivered, the latest first, as RB remembers them: `d` positions behind writePointer stands
the sample produced `d` samples ago, or +0.0 if there were fewer (R95). -/
def State.History (s : State) (ys : List Sample) : Prop :=
  ∀ d : Nat, 1 ≤ d → d ≤ ringSize → s.rb.memRead ((s.writePointer.toNat : Int) - d) = ys.getD (d - 1) 0#32

/-- `s` with the engine registers and RB of `e` (R22 to R28): everything R20 calls unreadable outside a session. -/
def State.withEngine (s e : State) : State :=
  { s with
    sampleRate := e.sampleRate
    feedbackTarget := e.feedbackTarget
    smoothedFeedback := e.smoothedFeedback
    frequencyTarget := e.frequencyTarget
    smoothedDelaySamples := e.smoothedDelaySamples
    writePointer := e.writePointer
    rb := e.rb }

/-- `s` with the mailbox of `e` (R29, R30). -/
def State.withMailbox (s e : State) : State := { s with mbxFb := e.mbxFb, mbxFq := e.mbxFq }

/-- Every F value the block holds, its parameters' included, is a pattern of its format (log 1). -/
def State.RegistersFit (s : State) : Prop :=
  s.fmt.Fits s.feedbackTarget ∧ s.fmt.Fits s.smoothedFeedback ∧ s.fmt.Fits s.frequencyTarget ∧
    s.fmt.Fits s.smoothedDelaySamples ∧ s.fmt.Fits s.mbxFb.value ∧ s.fmt.Fits s.mbxFq.value ∧
    s.fmt.Fits s.params.freqFloor ∧ s.fmt.Fits s.params.resetFeedbackTarget ∧ s.fmt.Fits s.params.resetFrequencyTarget

/-- A message of the source's Parameter Channel, its payload in F (R130, R131). -/
inductive Message where
  | feedbackChanged (v : FWord)
  | frequencyChanged (v : FWord)
deriving DecidableEq, Repr

/-- The source's drain: the queued messages applied in channel order to (feedbackTarget, frequencyTarget) (R66). -/
def fifoDrain : List Message → FWord × FWord → FWord × FWord
  | [], t => t
  | .feedbackChanged v :: rest, t => fifoDrain rest (v, t.2)
  | .frequencyChanged v :: rest, t => fifoDrain rest (t.1, v)

/-- The messages a state's mailbox stands for. -/
def State.pendingMessages (s : State) : List Message :=
  (if s.mbxFb.pending then [.feedbackChanged s.mbxFb.value] else []) ++
    (if s.mbxFq.pending then [.frequencyChanged s.mbxFq.value] else [])

/-- The command that carries a feedback (`fb`) or a frequency message. -/
def messageCommand (fb : Bool) (arg : Arg) : Instr := if fb then .fbk arg else .frq arg

/-- The message that command is when `s` accepts it. -/
def State.messageOf (s : State) (fb : Bool) (arg : Arg) : Message :=
  if fb then .feedbackChanged (s.floatOperand arg) else .frequencyChanged (s.floatOperand arg)

/-- Commands executed one after the other, with the messages they carry collected in order. -/
def State.sendAll : List (Bool × Arg) → State → List Message → Option (State × List Message)
  | [], s, ms => some (s, ms)
  | (fb, arg) :: rest, s, ms =>
    match exec (messageCommand fb arg) s with
    | .next t => State.sendAll rest t (ms ++ [s.messageOf fb arg])
    | _ => none

end Machine

end Sys2Proof
end

