-- ==== Sys2Proof/Certificates/Slice0/Obligations.lean ====
section
/-! DEFINITION. The statements about the machine, for the provers. Each says which rule of spec/ it formalises. -/

open Sys2Proof Sys2Proof.Machine

/-! Encoding -/

/-- R78, R73 to R76: on each port the decoder reads a command exactly from that command's encoding, and only where the command is legal. So
decoding an encoded well-formed command gives it back, and no two words mean one command. -/
def Obligations.DecodeExactlyTheEncodings : Prop :=
  ∀ (p : Port) (w : CmdWord) (i : Instr), decode p w = .instr i ↔ (w = encode i ∧ i.wellFormedOn p = true)

/-- R76, R77, R78 by the word's number: with OP = w / 2^64 and ARG = w mod 2^64, the legal words are OP 1 and 2 on CTL, OP 16 and 17 with
ARG below 2^32 on CMD, and OP 18 with ARG 0 on CMD. Every other word is ILLEGAL_CMD. -/
def Obligations.IllegalWordsByTheirBits : Prop :=
  ∀ (p : Port) (w : CmdWord),
    (∃ why, decode p w = .illegal why) ↔
      ¬((p = .ctl ∧ (w.toNat / 2 ^ 64 = 1 ∨ w.toNat / 2 ^ 64 = 2)) ∨
        (p = .cmd ∧ (w.toNat / 2 ^ 64 = 16 ∨ w.toNat / 2 ^ 64 = 17) ∧ w.toNat % 2 ^ 64 < 2 ^ 32) ∨
        (p = .cmd ∧ w.toNat / 2 ^ 64 = 18 ∧ w.toNat % 2 ^ 64 = 0))

/-- R83's example words, written out, decode to the commands they stand for. -/
def Obligations.SpecWordsDecode : Prop :=
  decode .ctl 0x013FECCCCCCCCCCCCD#72 = .instr (.fbk 0x3FECCCCCCCCCCCCD#64) ∧
  decode .ctl 0x02406E000000000000#72 = .instr (.frq 0x406E000000000000#64) ∧
  decode .cmd 0x10000000000000BB80#72 = .instr (.init 48000#32) ∧
  decode .cmd 0x110000000000000040#72 = .instr (.proc 64#32) ∧
  decode .cmd 0x120000000000000000#72 = .instr .teardown

/-- R83's example lines assemble to the commands of R83's example words; `PARAMS 240, 0.9` is the line PARAMS of those operands, and a
line PARAMS puts FRQ and then FBK on CTL, in that order, and nothing else (R84). -/
def Obligations.AssemblerExamples : Prop :=
  parseLine ['F', 'B', 'K', ' ', '0', '.', '9'] = .line (.command (.fbk 0x3FECCCCCCCCCCCCD#64)) ∧
  parseLine ['F', 'R', 'Q', ' ', '2', '4', '0'] = .line (.command (.frq 0x406E000000000000#64)) ∧
  parseLine ['I', 'N', 'I', 'T', ' ', '4', '8', '0', '0', '0'] = .line (.command (.init 48000#32)) ∧
  parseLine ['P', 'R', 'O', 'C', ' ', '6', '4'] = .line (.command (.proc 64#32)) ∧
  parseLine ['T', 'E', 'A', 'R', 'D', 'O', 'W', 'N'] = .line (.command .teardown) ∧
  parseLine ['P', 'A', 'R', 'A', 'M', 'S', ' ', '2', '4', '0', ',', ' ', '0', '.', '9'] =
    .line (.params 0x406E000000000000#64 0x3FECCCCCCCCCCCCD#64) ∧
  ∀ (freq fb : Arg) (s : State),
    (Line.params freq fb).offer s = { s with ctl := s.ctl ++ [encode (.frq freq), encode (.fbk fb)] }

/-! Steps run commands -/

/-- R71, R78: when the Engine's turn finds SEQ = READY, a session not terminated and a CMD word that decodes to `i`, the step takes the
word off CMD, passes the turn and is `exec i`. -/
def Obligations.StepRunsAcceptedCmdWord : Prop :=
  ∀ (s : State) (w : CmdWord) (rest : List CmdWord) (i : Instr),
    s.turn = .engine → s.seq = .ready → s.session ≠ .terminated → s.cmd = w :: rest → decode .cmd w = .instr i →
    step s = exec i { s.passTurn with cmd := rest }

/-- R71, R78, R132: on the Control agent's turn, whatever SEQ is, a CTL word that decodes to `i` is taken off CTL and executed. -/
def Obligations.StepRunsAcceptedCtlWord : Prop :=
  ∀ (s : State) (w : CmdWord) (rest : List CmdWord) (i : Instr),
    s.turn = .control → s.session ≠ .terminated → s.ctl = w :: rest → decode .ctl w = .instr i →
    step s = exec i { s.passTurn with ctl := rest }

/-- R151, R133, R157: an accepted word that decodes to ILLEGAL_CMD changes nothing but FAULT, which keeps the first code; CMD answers it
with 0x81 and CTL with nothing. In TERMINATED no word is accepted. -/
def Obligations.IllegalWordsOnlyRecord : Prop :=
  (∀ (s : State) (w : CmdWord) (rest : List CmdWord) (why : Illegal),
    s.turn = .engine → s.seq = .ready → s.session ≠ .terminated → s.cmd = w :: rest → decode .cmd w = .illegal why →
    step s = .next { s with
      turns := s.turns.tail, cmd := rest, fault := if s.fault = 0#8 then 0x01#8 else s.fault
      rsp := s.rsp ++ [0x00000081#32] }) ∧
  (∀ (s : State) (w : CmdWord) (rest : List CmdWord) (why : Illegal),
    s.turn = .control → s.session ≠ .terminated → s.ctl = w :: rest → decode .ctl w = .illegal why →
    step s = .next { s with
      turns := s.turns.tail, ctl := rest, fault := if s.fault = 0#8 then 0x01#8 else s.fault }) ∧
  (∀ s : State, s.session = .terminated → s.turn = .engine ∨ s.turn = .control →
    step s = .next { s with turns := s.turns.tail })

/-- R71, R132, R143: a command whose port does not accept it changes nothing: INIT, PROC and TEARDOWN while SEQ is not READY or the session is
terminated, FBK and FRQ while it is terminated. -/
def Obligations.CommandsNotAcceptedChangeNothing : Prop :=
  ∀ (i : Instr) (s : State),
    (s.session = .terminated ∨ (i.port = .cmd ∧ s.seq ≠ .ready)) → exec i s = .next s

/-! The parameter channel -/

/-- R130: FBK, accepted in any session state but TERMINATED, whatever SEQ is, sets MBX_FB to (1, toArith(ARG)) and changes nothing else of the
block. The draw counter is the model's own (log 6). -/
def Obligations.FbkFillsItsSlot : Prop :=
  ∀ (arg : Arg) (s : State), s.session ≠ .terminated →
    exec (.fbk arg) s = .next { s with mbxFb := ⟨true, s.floatOperand arg⟩, draws := s.draws + 1 }

/-- R131: FRQ likewise sets MBX_FQ and nothing else. -/
def Obligations.FrqFillsItsSlot : Prop :=
  ∀ (arg : Arg) (s : State), s.session ≠ .terminated →
    exec (.frq arg) s = .next { s with mbxFq := ⟨true, s.floatOperand arg⟩, draws := s.draws + 1 }

/-- R74 (a): `toArith(ARG)` is ARG itself in a binary64 instance; in a binary32 instance its value is the binary64 value rounded once, an
infinity stays that infinity and a NaN a NaN. -/
def Obligations.FloatOperandRounds : Prop :=
  ∀ (s : State) (arg : Arg),
    (s.fmt = .binary64 → s.floatOperand arg = arg) ∧
    (s.fmt = .binary32 →
      s.fval (s.floatOperand arg) =
        match Fmt.unpack .binary64 arg with
        | .nan => .nan
        | .inf neg => .inf neg
        | .fin neg mag => Fmt.round .binary32 neg (mag * Fmt.one .binary32) (Fmt.one .binary64))

/-- R66, R101: for any commands FBK and FRQ accepted one after the other, the targets a DRAIN then leaves are those the source's drain leaves:
the messages pending before, then these, applied in channel order. -/
def Obligations.MailboxRefinesTheFifo : Prop :=
  ∀ (msgs : List (Bool × Arg)) (s : State), s.session ≠ .terminated →
    ∃ (t : State) (sent : List Message),
      State.sendAll msgs s [] = some (t, sent) ∧ sent.length = msgs.length ∧
      t.feedbackTarget = s.feedbackTarget ∧ t.frequencyTarget = s.frequencyTarget ∧
      (t.drain.feedbackTarget, t.drain.frequencyTarget) =
        fifoDrain (s.pendingMessages ++ sent) (s.feedbackTarget, s.frequencyTarget)

/-! Session commands -/

/-- R140, R34, R182: INIT with 1 ≤ sr ≤ SR_MAX, accepted in IDLE, constructs the session and answers 0x00. The mailbox, SEQ and the ports
stay, every word of RB reads +0.0, and the session has no history yet. -/
def Obligations.InitStartsSession : Prop :=
  ∀ (sr : BitVec 32) (s : State),
    s.session = .idle → s.seq = .ready → 1 ≤ sr.toNat → sr.toNat ≤ s.params.srMax.toNat →
    ∃ t, exec (.init sr) s = .next t ∧ (∀ i, t.rb.memRead i = 0#32) ∧ t.History [] ∧
      t = { s with
        rb := t.rb, sampleRate := sr, writePointer := 0#24
        feedbackTarget := s.params.resetFeedbackTarget, frequencyTarget := s.params.resetFrequencyTarget
        smoothedFeedback := match s.params.smoothInit with
          | .settled => s.params.resetFeedbackTarget
          | .zero => 0#64
        smoothedDelaySamples := match s.params.smoothInit with
          | .settled => s.fmt.pack (s.drawn 0)
              (s.fmt.div (s.fmt.ofInt (sr.toNat : Int)) (s.fval s.params.resetFrequencyTarget))
          | .zero => 0#64
        fault := 0x00#8, session := .running, rsp := s.rsp ++ [0x00000000#32], draws := s.draws + 1 }

/-- R141, R153: INIT in IDLE with sr = 0 or sr > SR_MAX records INIT_FAIL (the first fault is kept), answers 0x83 and changes nothing else. -/
def Obligations.InitRejectsRate : Prop :=
  ∀ (sr : BitVec 32) (s : State),
    s.session = .idle → s.seq = .ready → sr.toNat = 0 ∨ s.params.srMax.toNat < sr.toNat →
    exec (.init sr) s = .next { s with
      fault := if s.fault = 0#8 then 0x03#8 else s.fault, rsp := s.rsp ++ [0x00000083#32] }

/-- R152: INIT in RUNNING, and PROC and TEARDOWN in IDLE, record ILLEGAL_STATE (the first fault is kept), answer 0x82 and change
nothing else. -/
def Obligations.WrongSessionStateOnlyRecords : Prop :=
  ∀ (i : Instr) (s : State), s.seq = .ready →
    ((∃ sr, i = .init sr) ∧ s.session = .running) ∨ (((∃ len, i = .proc len) ∨ i = .teardown) ∧ s.session = .idle) →
    exec i s = .next { s with
      fault := if s.fault = 0#8 then 0x02#8 else s.fault, rsp := s.rsp ++ [0x00000082#32] }

/-- R142: TEARDOWN, accepted in RUNNING, answers 0x00 and writes SESSION. The engine registers and RB keep no value (log 9), so nothing is said
of them; the mailbox, FAULT and everything else stay. -/
def Obligations.TeardownEndsSession : Prop :=
  ∀ s : State, s.session = .running → s.seq = .ready →
    ∃ t, exec .teardown s = .next t ∧
      t = { s.withEngine t with session := .idle, rsp := s.rsp ++ [0x00000000#32], draws := t.draws }

/-- R140: nothing of an earlier session survives a successful INIT but the mailbox: whatever the engine registers and RB held, the state after is
the same. -/
def Obligations.InitForgetsTheOldSession : Prop :=
  ∀ (sr : BitVec 32) (s e : State),
    s.session = .idle → s.seq = .ready → 1 ≤ sr.toNat → sr.toNat ≤ s.params.srMax.toNat →
    exec (.init sr) (s.withEngine e) = exec (.init sr) s

/-- R20: outside a session, in IDLE (where SEQ is READY) as in TERMINATED, the engine registers and RB are unreadable: changing them changes
no response, no sample, no status and no other state of any step. -/
def Obligations.EngineUnreadableInIdle : Prop :=
  ∀ s e t : State, s.session ≠ .running → (s.session = .idle → s.seq = .ready) → step s = .next t →
    ∃ t', step (s.withEngine e) = .next t' ∧ t' = t.withEngine t'

/-! The block -/

/-- R100, R101: PROC, accepted in RUNNING, drains the mailbox into the targets, takes L and k, and enters the loop, or goes straight to the
response when L = 0. That SEQ leaves DRAIN inside this step is the model's reading (log 13, DEDUCED). Nothing else changes: no sample, no smoothed register, no word of RB. -/
def Obligations.ProcBeginsBlock : Prop :=
  ∀ (len : BitVec 32) (s : State), s.session = .running → s.seq = .ready →
    exec (.proc len) s = .next { s with
      feedbackTarget := if s.mbxFb.pending = true then s.mbxFb.value else s.feedbackTarget
      frequencyTarget := if s.mbxFq.pending = true then s.mbxFq.value else s.frequencyTarget
      mbxFb := ⟨false, s.mbxFb.value⟩, mbxFq := ⟨false, s.mbxFq.value⟩
      blockLen := len, blockDone := 0#32, seq := if len.toNat = 0 then .respond else .sample }

/-- R100, R102, R111, R188: from a state of the invariant, with L SIN words on offer and no other agent moving, an accepted PROC L runs to its
response in L + 2 steps: L SOUT words, then RSP 0x00, SEQ READY, writePointer L further on (mod N), exactly L SIN words taken. That no
other agent moves is the model's default order: an empty schedule and nothing on CTL (log 2, DESIGN CHOICE). -/
def Obligations.ProcRunsToItsResponse : Prop :=
  ∀ (s : State) (len : BitVec 32) (cmds : List CmdWord) (xs more : List Sample),
    s.Inv → s.session = .running → s.seq = .ready → s.turns = [] → s.ctl = [] →
    s.cmd = encode (.proc len) :: cmds → s.sin = xs ++ more → xs.length = len.toNat →
    ∃ (t : State) (ys : List Sample),
      runSteps (len.toNat + 2) s = .next t ∧ ys.length = len.toNat ∧ t.sout = s.sout ++ ys ∧
      t.rsp = s.rsp ++ [0x00000000#32] ∧ t.seq = .ready ∧ t.session = .running ∧ t.sin = more ∧ t.cmd = cmds ∧
      t.writePointer = s.writePointer + BitVec.ofNat 24 len.toNat ∧ t.fault = s.fault

/-- R102, R107, R108, R109, R186: what a sample step delivers. With u the state after steps a to c, e1 and e2 the two evaluations at u's read
position and one further, the SOUT word is narrow(widen(x) + smoothedFeedback × (0.5 e1 + 0.5 e2)). -/
def Obligations.SampleStepRecurrence : Prop :=
  ∀ (s : State) (x : Sample) (rest : List Sample) (e1 e2 : FVal),
    s.sin = x :: rest →
    s.rb.rbEvaluate s.fmt s.smoothed.readPosition = some e1 →
    s.rb.rbEvaluate s.fmt (s.fmt.add s.smoothed.readPosition s.fmt.kOne) = some e2 →
    ∃ t, s.sampleStep = .next t ∧
      t.sout = s.sout ++ [s.fmt.narrow (s.drawn 0) (s.fmt.add (s.fmt.widen x)
        (s.fmt.mul (s.fval s.smoothed.smoothedFeedback)
          (s.fmt.add (s.fmt.mul s.fmt.kHalf e1) (s.fmt.mul s.fmt.kHalf e2))))] ∧
      t.smoothedFeedback = (s.smoothDelay s.targetDelay).smoothFeedback.smoothedFeedback ∧
      t.smoothedDelaySamples = (s.smoothDelay s.targetDelay).smoothedDelaySamples

/-- R33, R100, R102, R109, R110: a sample step takes one SIN word and delivers one SOUT word; that same word is what RB[writePointer] then reads, every other
word of RB reads as before; writePointer moves on by one, N − 1 to 0; k counts; inside the loop SEQ stays SAMPLE while k + 1 < L and is RESPOND
after the last sample, in the step that does it, which is the model's reading (log 13, DEDUCED); the sample rate, targets, mailbox, FAULT, SESSION, L and the other ports stay. EngineStepsOfABlock says when a step is
this one. -/
def Obligations.SampleStepFrame : Prop :=
  ∀ (s t : State) (x : Sample) (rest : List Sample), s.rb.wf → s.sin = x :: rest → s.sampleStep = .next t →
    ∃ y, t.sout = s.sout ++ [y] ∧ t.sin = rest ∧
      (∀ i, t.rb.memRead i = if ringIndex i = s.writePointer.toNat then y else s.rb.memRead i) ∧
      t.writePointer.toNat = (s.writePointer.toNat + 1) % ringSize ∧
      t.blockDone = s.blockDone + 1#32 ∧
      (s.blockDone < s.blockLen → t.seq = if s.blockDone.toNat + 1 < s.blockLen.toNat then .sample else .respond) ∧
      t = { s with
        sin := t.sin, sout := t.sout, rb := t.rb, writePointer := t.writePointer, blockDone := t.blockDone
        seq := t.seq, smoothedDelaySamples := t.smoothedDelaySamples, smoothedFeedback := t.smoothedFeedback
        draws := t.draws }

/-- R103: step a. A frequency below FREQ_FLOOR counts as FREQ_FLOOR and gives a finite delay; any other number is used as it is; +infinity gives
+0.0; a NaN gives NaN. -/
def Obligations.TargetDelayClamps : Prop :=
  ∀ s : State, s.params.valid = true →
    let f := s.fval s.frequencyTarget
    let floor := s.fval s.params.freqFloor
    let rate := s.fmt.ofInt (s.sampleRate.toNat : Int)
    (f.lt floor = true → s.targetDelay = s.fmt.div rate floor ∧
      (s.sampleRate ≤ s.params.srMax → s.targetDelay.isFinite = true)) ∧
    (f.lt floor = false → s.targetDelay = s.fmt.div rate f) ∧
    (f = .inf false → rate.isFinite = true → s.targetDelay = .fin false 0) ∧
    (f = .nan → s.targetDelay = .nan)

/-- R104, R160: step b. A finite target with a finite result leaves exactly that value in smoothedDelaySamples; any other leaves the register. No
other register changes. -/
def Obligations.SmoothDelayUpdatesOrHolds : Prop :=
  ∀ (s : State) (td : FVal),
    let n := s.fmt.add (s.fmt.mul s.fmt.kDn td) (s.fmt.mul s.fmt.kDo (s.fval s.smoothedDelaySamples))
    (td.isFinite = true → n.isFinite = true →
      s.fval (s.smoothDelay td).smoothedDelaySamples = n ∧
        s.smoothDelay td = { s with smoothedDelaySamples := (s.smoothDelay td).smoothedDelaySamples }) ∧
    (td.isFinite = false ∨ n.isFinite = false → s.smoothDelay td = s)

/-- R105, R118, R160: step c, likewise for smoothedFeedback and feedbackTarget, whatever finite value the target has: the gain is not clamped. -/
def Obligations.SmoothFeedbackUpdatesOrHolds : Prop :=
  ∀ s : State,
    let target := s.fval s.feedbackTarget
    let n := s.fmt.add (s.fmt.mul s.fmt.kFn target) (s.fmt.mul s.fmt.kFo (s.fval s.smoothedFeedback))
    (target.isFinite = true → n.isFinite = true →
      s.fval s.smoothFeedback.smoothedFeedback = n ∧
        s.smoothFeedback = { s with smoothedFeedback := s.smoothFeedback.smoothedFeedback }) ∧
    (target.isFinite = false ∨ n.isFinite = false → s.smoothFeedback = s)

/-- R106, R115: with the delay in range the read position of step d is finite and in [0, N]. -/
def Obligations.ReadPositionInRange : Prop :=
  ∀ s : State, s.DelayInRange → ∃ mag, s.readPosition = .fin false mag ∧ mag ≤ ringSize * s.fmt.one

/-! The ring buffer -/

/-- R52, R53: MemWrite sets the one word at i mod N to the bits given and no other; MemRead at any index returns it. -/
def Obligations.RingReadAfterWrite : Prop :=
  ∀ (m : Memory) (i j : Int) (v : Sample), m.wf →
    (m.memWrite i v).memRead j = if i % (ringSize : Int) = j % (ringSize : Int) then v else m.memRead j

/-- R92: RB.EVALUATE depends on the two words at floor(pos) and floor(pos) + 1 alone. -/
def Obligations.EvaluateReadsTwoWords : Prop :=
  ∀ (f : Fmt) (m m' : Memory) (neg : Bool) (mag : Nat),
    m.memRead (f.floorFin neg mag) = m'.memRead (f.floorFin neg mag) →
    m.memRead (f.floorFin neg mag + 1) = m'.memRead (f.floorFin neg mag + 1) →
    m.rbEvaluate f (.fin neg mag) = m'.rbEvaluate f (.fin neg mag)

/-- R93, R91 (a): readback at an integer position p. With a finite next word, the result is widen(v) for v finite and nonzero or infinite, a zero
for v a zero, negative only when v and the next word both are, and NaN for v a NaN; with a next word not finite it is NaN. -/
def Obligations.EvaluateExactReadback : Prop :=
  ∀ (f : Fmt) (m : Memory) (p : Nat), p < ringSize →
    let r := m.rbEvaluate f (f.ofInt (p : Int))
    let b0 := f.widen (m.memRead p)
    match f.widen (m.memRead (p + 1)) with
    | .fin t _ =>
      (∀ s k, b0 = .fin s k → r = some (.fin (if k = 0 then s && t else s) k)) ∧
      (∀ s, b0 = .inf s → r = some (.inf s)) ∧ (b0 = .nan → r = some .nan)
    | _ => r = some .nan

/-- R94: halfway between two finite words, in binary64: the result is (0.5 × v0) + (0.5 × v1). -/
def Obligations.EvaluateMidpoint : Prop :=
  ∀ (m : Memory) (p : Nat), p < ringSize →
    let f := Fmt.binary64
    (f.widen (m.memRead p)).isFinite = true → (f.widen (m.memRead (p + 1))).isFinite = true →
    m.rbEvaluate f (f.add (f.ofInt (p : Int)) f.kHalf) =
      some (f.add (f.mul f.kHalf (f.widen (m.memRead p))) (f.mul f.kHalf (f.widen (m.memRead (p + 1)))))

/-- R95: in a session every step keeps RB's history. A step that delivers a sample puts it in front; any other leaves the history as it
was. -/
def Obligations.HistoryKeptByEveryStep : Prop :=
  ∀ (s t : State) (ys : List Sample),
    s.rb.wf → s.session = .running → t.session = .running → s.History ys → step s = .next t →
    (t.sout = s.sout ∧ t.History ys) ∨ (∃ y, t.sout = s.sout ++ [y] ∧ t.History (y :: ys))

/-! Arithmetic -/

/-- R8: rounding is to nearest. The rounded magnitude is representable, and no representable magnitude is nearer to num / den. -/
def Obligations.RoundToNearest : Prop :=
  ∀ (f : Fmt) (num den : Nat), 0 < den →
    f.Representable (f.roundMag num den) ∧
    ∀ m, f.Representable m →
      |(num : Int) - (f.roundMag num den : Int) * den| ≤ |(num : Int) - (m : Int) * den|

/-- R8: ties go to even. When another representable magnitude is exactly as near, the one chosen is an even multiple of the spacing of the
format's values there. -/
def Obligations.RoundTiesToEven : Prop :=
  ∀ (f : Fmt) (num den m : Nat), 0 < den → f.Representable m → m ≠ f.roundMag num den →
    |(num : Int) - (f.roundMag num den : Int) * den| = |(num : Int) - (m : Int) * den| →
    ∃ j, f.roundMag num den = 2 * j * f.quantum (num / den)

/-- R8: widen is exact and narrow undoes it: a sample that is no NaN comes back bit for bit from F. -/
def Obligations.NarrowUndoesWiden : Prop :=
  ∀ (f : Fmt) (raw : BitVec 64) (w : Sample), sampleVal w ≠ .nan → f.narrow raw (f.widen w) = w

/-- R8, R51, R74: a pattern of the format that is no NaN is the pattern of its own value. -/
def Obligations.PackUndoesUnpack : Prop :=
  ∀ (f : Fmt) (raw : BitVec 64) (b : FWord), f.Fits b → f.unpack b ≠ .nan → f.pack raw (f.unpack b) = b

/-- R161, R160: in a binary64 instance, in a session of the invariant, a finite input sample and a ring buffer of finite words never give a
NaN: the output can at most overflow to an infinity. -/
def Obligations.FiniteInputsMakeNoNaN : Prop :=
  ∀ (s t : State) (x : Sample) (rest : List Sample),
    s.Inv → s.session = .running → s.fmt = .binary64 → s.sin = x :: rest → (sampleVal x).isFinite = true →
    (∀ i, (sampleVal (s.rb.memRead i)).isFinite = true) → s.sampleStep = .next t →
    ∃ y, t.sout = s.sout ++ [y] ∧ sampleVal y ≠ .nan

/-- R113, I4: the draw counter, and so every free value, reaches a sample only as the encoding of a NaN. -/
def Obligations.OnlyNaNEncodingsAreOpen : Prop :=
  ∀ (s : State) (d : Nat) (x y y' : Sample),
    s.smoothed.sampleWord x = some y → ({ s with draws := d } : State).smoothed.sampleWord x = some y' →
    SameSample y y'

/-! The whole machine -/

/-- The invariant of every run (R5, R21, R24, R26, R31, R33, R115) holds right after reset. -/
def Obligations.InvHoldsAtReset : Prop := State.reset.Inv

/-- From every state of the invariant every step answers a next state, which meets it again: the model's two stops are never met, the delay
stays in [0, 2^23], the feedback finite, the ring buffer canonical, SEQ between steps, k below L (R24, R26, R31, R33, R115). -/
def Obligations.EveryStepGoesOnAndKeepsInv : Prop :=
  ∀ s : State, s.Inv → ∃ t, step s = .next t ∧ t.Inv

/-- In a binary32 instance no F register, no mailbox value and no F parameter (FREQ_FLOOR and the two reset targets) ever holds a bit above 31
(log 1): every step keeps the patterns in their format. -/
def Obligations.RegistersKeepTheirFormat : Prop :=
  ∀ s t : State, s.RegistersFit → step s = .next t → t.RegistersFit

/-- R5, R20: the parameters are fixed for an instance: no step changes them. -/
def Obligations.ParamsNeverChange : Prop :=
  ∀ s t : State, step s = .next t → t.params = s.params

/-- R144: the session's transitions and no other: IDLE to RUNNING by an accepted INIT that is answered 0x00, RUNNING to IDLE by an accepted
TEARDOWN answered 0x00, any state to TERMINATED by SHUTDOWN, any state to IDLE by RST. A step that answers a fault leaves SESSION. The sample
rate does not change within a session. -/
def Obligations.SessionLifecycle : Prop :=
  ∀ s t : State, step s = .next t →
    (t.session = s.session ∨
      (s.session = .idle ∧ t.session = .running ∧ t.rsp = s.rsp ++ [0#32] ∧
        ∃ w rest sr, s.cmd = w :: rest ∧ decode .cmd w = .instr (.init sr)) ∨
      (s.session = .running ∧ t.session = .idle ∧ t.rsp = s.rsp ++ [0#32] ∧
        ∃ w rest, s.cmd = w :: rest ∧ decode .cmd w = .instr .teardown) ∨
      s.turn = .shutdown ∨ s.turn = .reset) ∧
    (s.turn = .shutdown → t.session = .terminated) ∧ (s.turn = .reset → t.session = .idle) ∧
    ((∃ c, t.rsp = s.rsp ++ [c] ∧ c ≠ 0#32) → t.session = s.session) ∧
    (s.session = .running → t.session = .running → t.sampleRate = s.sampleRate)

/-- R155: recording sets FAULT only when it is 0x00; a later fault never overwrites an earlier one; FAULT returns to 0x00 only on a successful INIT
or on power-on reset. -/
def Obligations.FirstFaultIsKept : Prop :=
  (∀ (s : State) (c : FaultCode), (s.raise c).fault = if s.fault = 0x00#8 then c.code else s.fault) ∧
  (∀ s t : State, step s = .next t → s.fault ≠ 0x00#8 →
    t.fault = s.fault ∨
      (t.fault = 0x00#8 ∧ (s.turn = .reset ∨ (s.session = .idle ∧ t.session = .running))))

/-- R79, R111, R157: a step sends at most one response, and every response is OK, ILLEGAL_CMD, ILLEGAL_STATE or INIT_FAIL. STOP (0x01) is never
sent. -/
def Obligations.ResponsesAreTheCodes : Prop :=
  ∀ s t : State, step s = .next t →
    t.rsp = s.rsp ∨ ∃ c ∈ [0x00000000#32, 0x00000081#32, 0x00000082#32, 0x00000083#32], t.rsp = s.rsp ++ [c]

/-- R143, R188: CMD gives up no word while SEQ is not READY, and SEQ becomes READY again only in the step that sends response 0x00 or in RST.
So a block runs to its response or to RST before another command is accepted; after a SHUTDOWN none is (TerminatedStaysInert). -/
def Obligations.OneCommandAtATime : Prop :=
  ∀ s t : State, step s = .next t → s.seq ≠ .ready →
    t.cmd = s.cmd ∧ (t.seq = .ready → t.rsp = s.rsp ++ [0x00000000#32] ∨ s.turn = .reset)

/-- R37, R156: what each command may write. FBK and FRQ write their slot alone; PROC no engine register but the targets; no command touches the
parameters, the SIN and SOUT streams or the offered words; TEARDOWN and INIT leave the mailbox. -/
def Obligations.CommandsWriteOnlyTheirOwn : Prop :=
  ∀ (i : Instr) (s t : State), exec i s = .next t →
    t.params = s.params ∧ t.cmd = s.cmd ∧ t.ctl = s.ctl ∧ t.sin = s.sin ∧ t.sout = s.sout ∧ t.turns = s.turns ∧
    (match i with
    | .fbk _ => t = { s with mbxFb := t.mbxFb, draws := t.draws }
    | .frq _ => t = { s with mbxFq := t.mbxFq, draws := t.draws }
    | .proc _ => t = { s with
        feedbackTarget := t.feedbackTarget, frequencyTarget := t.frequencyTarget, mbxFb := t.mbxFb, mbxFq := t.mbxFq
        seq := t.seq, blockLen := t.blockLen, blockDone := t.blockDone, fault := t.fault, rsp := t.rsp }
    | .init _ => t = { s.withEngine t with session := t.session, fault := t.fault, rsp := t.rsp, draws := t.draws }
    | .teardown => t = { s.withEngine t with session := t.session, fault := t.fault, rsp := t.rsp, draws := t.draws })

/-- R36, R164: the Control agent writes only MBX_FB, MBX_FQ and, by an illegal word, FAULT. -/
def Obligations.ControlWritesOnlyTheMailbox : Prop :=
  ∀ s t : State, s.turn = .control → step s = .next t →
    t = { s with
      mbxFb := t.mbxFb, mbxFq := t.mbxFq, fault := t.fault, ctl := t.ctl, turns := t.turns, draws := t.draws }

/-- R112, R61: within a session a target changes only in a step that accepts a PROC (or finishes a DRAIN); in the steps of a block, and in
every CTL acceptance, both targets stay. -/
def Obligations.TargetsChangeOnlyAtADrain : Prop :=
  ∀ s t : State, step s = .next t → s.session = .running → t.session = .running →
    (t.feedbackTarget = s.feedbackTarget ∧ t.frequencyTarget = s.frequencyTarget) ∨
    (s.turn = .engine ∧
      (s.seq = .drain ∨ (s.seq = .ready ∧ ∃ w rest len, s.cmd = w :: rest ∧ decode .cmd w = .instr (.proc len))))

/-- R36, R61, R112: the Control agent's pending messages reach no sample before the next DRAIN: a sample step with another mailbox does the
same and leaves that mailbox. -/
def Obligations.MailboxInvisibleToSamples : Prop :=
  ∀ s e t : State, s.sampleStep = .next t → (s.withMailbox e).sampleStep = .next (t.withMailbox e)

/-- R154, R163: SHUTDOWN, at any step boundary, in any state: 0x04 in FAULT if it is 0x00, SESSION TERMINATED, no response, no further sample.
That nothing else changes is the model's reading (log 17, DEDUCED): SEQ, L and k stay, so BUSY stays 1 where a block is cut, and a second
SHUTDOWN does the same again. -/
def Obligations.ShutdownIsTaken : Prop :=
  ∀ s : State, s.turn = .shutdown →
    step s = .next { s with
      turns := s.turns.tail, fault := if s.fault = 0x00#8 then 0x04#8 else s.fault, session := .terminated }

/-- R154, R158: once TERMINATED, with its fault recorded, nothing but RST makes the block do anything: however many steps are taken, the ports,
the mailbox, the engine, SESSION and FAULT stay. That words on offer stay on offer is log 2's, that SEQ stays at a further SHUTDOWN log 17's. -/
def Obligations.TerminatedStaysInert : Prop :=
  ∀ (n : Nat) (s : State), s.session = .terminated → s.fault ≠ 0x00#8 → Turn.reset ∉ s.turns →
    runSteps n s = .next { s with turns := s.turns.drop n }

/-- R180: RST, in any state, TERMINATED included: IDLE, FAULT 0x00, both pending bits clear, READY, STATUS 0x00000000, no response. The engine
registers, RB, the mailbox values, L and k keep no value, so nothing is said of them. That the words on CMD, CTL and SIN and the schedule stay
is the model's reading (log 10, DEDUCED). -/
def Obligations.ResetIsTaken : Prop :=
  ∀ s : State, s.turn = .reset →
    ∃ t, step s = .next t ∧ t.status = 0x00000000#32 ∧ t.mbxFb.pending = false ∧ t.mbxFq.pending = false ∧
      t = { s.withEngine t with
        session := .idle, fault := 0x00#8, seq := .ready, mbxFb := t.mbxFb, mbxFq := t.mbxFq
        blockLen := t.blockLen, blockDone := t.blockDone, turns := s.turns.tail, draws := t.draws }

/-- R180, R181: the machine right after power-on reset: IDLE, no fault, mailbox empty, READY, STATUS 0x00000000, both ports accepting. -/
def Obligations.ResetState : Prop :=
  State.reset.session = .idle ∧ State.reset.fault = 0x00#8 ∧ State.reset.mbxFb.pending = false ∧
  State.reset.mbxFq.pending = false ∧ State.reset.seq = .ready ∧ State.reset.status = 0x00000000#32 ∧
  State.reset.acceptsCmd = true ∧ State.reset.acceptsCtl = true

/-- R32, R21: STATUS field by field: STATE (never 3), BUSY, FB_PEND, FQ_PEND, FAULT, and zeros. After power-on reset it is 0x00000000. -/
def Obligations.StatusFields : Prop :=
  State.reset.status = 0x00000000#32 ∧
  ∀ s : State,
    (s.status.extractLsb' 0 2).toNat = (match s.session with | .idle => 0 | .running => 1 | .terminated => 2) ∧
    s.status.getLsbD 2 = (s.seq != .ready) ∧ s.status.getLsbD 3 = s.mbxFb.pending ∧
    s.status.getLsbD 4 = s.mbxFq.pending ∧ s.status.extractLsb' 5 3 = 0#3 ∧ s.status.extractLsb' 8 8 = s.fault ∧
    s.status.extractLsb' 16 16 = 0#16

/-- R102, R192 (c): a block whose Host offers no SIN word holds: the Engine's turn changes nothing. -/
def Obligations.BlockHoldsWithoutInput : Prop :=
  ∀ s : State, s.turn = .engine → s.session ≠ .terminated → s.seq = .sample → s.blockDone < s.blockLen → s.sin = [] →
    step s = .next { s with turns := s.turns.tail }

/-- R192 (a): a quiescent block with no input asserted stays as it is. -/
def Obligations.QuiescentStays : Prop :=
  ∀ s : State, s.Quiescent → s.turns = [] → step s = .next s

/-- R100, R102, R111, R163: the Engine's turn inside a block. With SEQ = SAMPLE and k < L the step is the sample step of SampleStepRecurrence and
SampleStepFrame; with SEQ = RESPOND it sends response 0x00, CONTINUE, and makes SEQ READY, and changes nothing else. -/
def Obligations.EngineStepsOfABlock : Prop :=
  (∀ s : State, s.turn = .engine → s.session ≠ .terminated → s.seq = .sample → s.blockDone < s.blockLen →
    step s = s.passTurn.sampleStep) ∧
  (∀ s : State, s.turn = .engine → s.session ≠ .terminated → s.seq = .respond →
    step s = .next { s with turns := s.turns.tail, rsp := s.rsp ++ [0x00000000#32], seq := .ready })
end

