-- ==== Sys2Proof/Laws/Float.lean ====
section
/-! SUPPORT. What rounding, packing and unpacking do, said once: a rounded magnitude is representable, is monotone, is exact on
representable magnitudes and stays on its side of every representable bound; packing a value and unpacking it gives it back. -/

namespace Sys2Proof

theorem le_nearestEven {k num den : Nat} (hd : 0 < den) (h : k * den ≤ num) : k ≤ nearestEven num den := by
  have hk : k ≤ num / den := (Nat.le_div_iff_mul_le hd).2 h
  unfold nearestEven
  split <;> omega

theorem nearestEven_le {k num den : Nat} (hd : 0 < den) (h : num ≤ k * den) : nearestEven num den ≤ k := by
  have hdm := Nat.div_add_mod num den
  have hlt := Nat.mod_lt num hd
  rcases Nat.lt_or_ge (num / den) k with hk | hk
  · unfold nearestEven
    split <;> omega
  · have hmul : den * k ≤ den * (num / den) := Nat.mul_le_mul_left _ hk
    have hcomm : k * den = den * k := Nat.mul_comm _ _
    have hr : num % den = 0 := by omega
    have hq : den * (num / den) = den * k := by omega
    have hq' : num / den = k := Nat.eq_of_mul_eq_mul_left hd hq
    unfold nearestEven
    rw [hr, hq']
    split
    · omega
    · exact le_rfl

theorem nearestEven_mono {a b den : Nat} (h : a ≤ b) : nearestEven a den ≤ nearestEven b den := by
  have hq : a / den ≤ b / den := Nat.div_le_div_right h
  rcases Nat.lt_or_eq_of_le hq with hlt | heq
  · have h1 : nearestEven a den ≤ a / den + 1 := by unfold nearestEven; split <;> omega
    have h2 : b / den ≤ nearestEven b den := by unfold nearestEven; split <;> omega
    omega
  · have ha := Nat.div_add_mod a den
    have hb := Nat.div_add_mod b den
    have hr : a % den ≤ b % den := by rw [heq] at ha; omega
    unfold nearestEven
    rw [heq]
    split <;> split <;> omega

theorem Fmt.precision_pos (f : Fmt) : 0 < f.precision := by cases f <;> decide

theorem Fmt.quantum_pos (f : Fmt) (t : Nat) : 0 < f.quantum t := Nat.two_pow_pos _

/-- Below a power of two of the precision's length every whole number is representable. -/
theorem Fmt.representable_two_pow (f : Fmt) (n : Nat) : f.Representable (2 ^ n) :=
  ⟨1, n, Nat.one_lt_two_pow f.precision_pos.ne', by rw [Nat.one_mul]⟩

/-- A representable magnitude not below the quantum's range is a multiple of the quantum. -/
theorem Fmt.quantum_dvd (f : Fmt) {m t : Nat} (hm : f.Representable m) (ht : t ≤ m) (h0 : t ≠ 0) : f.quantum t ∣ m := by
  obtain ⟨k, e, hk, rfl⟩ := hm
  unfold Fmt.quantum
  by_cases hz : t.log2 + 1 - f.precision = 0
  · rw [hz]; simp
  · have h1 : 2 ^ t.log2 ≤ k * 2 ^ e := le_trans (Nat.log2_self_le h0) ht
    have h2 : k * 2 ^ e < 2 ^ (f.precision + e) := by
      rw [Nat.pow_add]
      exact Nat.mul_lt_mul_of_pos_right hk (Nat.two_pow_pos e)
    have h3 : t.log2 < f.precision + e := (Nat.pow_lt_pow_iff_right (by decide)).1 (lt_of_le_of_lt h1 h2)
    exact Dvd.dvd.mul_left (Nat.pow_dvd_pow 2 (by omega)) k

/-- Rounding does not pass a representable magnitude from below. -/
theorem Fmt.roundMag_le (f : Fmt) {m num den : Nat} (hd : 0 < den) (hm : f.Representable m) (h : num ≤ m * den) :
    f.roundMag num den ≤ m := by
  have ht : num / den ≤ m := Nat.div_le_of_le_mul (by rwa [Nat.mul_comm])
  unfold Fmt.roundMag
  have hup := f.quantum_pos (num / den)
  by_cases h0 : num / den = 0
  · have hq : f.quantum (num / den) = 1 := by
      unfold Fmt.quantum
      rw [h0]
      cases f <;> decide
    rw [hq, Nat.mul_one, Nat.mul_one]
    exact nearestEven_le hd h
  · obtain ⟨c, hc⟩ := f.quantum_dvd hm ht h0
    have hle : nearestEven num (den * f.quantum (num / den)) ≤ c := by
      apply nearestEven_le (Nat.mul_pos hd hup)
      calc num ≤ m * den := h
        _ = c * (den * f.quantum (num / den)) := by rw [hc]; ring
    calc _ ≤ c * f.quantum (num / den) := Nat.mul_le_mul_right _ hle
      _ = m := by rw [hc]; ring

/-- Rounding does not pass a representable magnitude from above. -/
theorem Fmt.le_roundMag (f : Fmt) {m num den : Nat} (hd : 0 < den) (hm : f.Representable m) (h : m * den ≤ num) :
    m ≤ f.roundMag num den := by
  have ht : m ≤ num / den := (Nat.le_div_iff_mul_le hd).2 h
  unfold Fmt.roundMag
  have hup := f.quantum_pos (num / den)
  by_cases hdv : f.quantum (num / den) ∣ m
  · obtain ⟨c, hc⟩ := hdv
    have hle : c ≤ nearestEven num (den * f.quantum (num / den)) := by
      apply le_nearestEven (Nat.mul_pos hd hup)
      calc c * (den * f.quantum (num / den)) = m * den := by rw [hc]; ring
        _ ≤ num := h
    calc m = c * f.quantum (num / den) := by rw [hc]; ring
      _ ≤ _ := Nat.mul_le_mul_right _ hle
  · by_cases h0 : num / den = 0
    · omega
    · obtain ⟨k, e, hk, rfl⟩ := hm
      set t := num / den with htdef
      have he : e < t.log2 + 1 - f.precision := by
        by_contra hge
        exact hdv (Dvd.dvd.mul_left (Nat.pow_dvd_pow 2 (by omega)) k)
      have hk2 : k * 2 ^ e ≤ 2 ^ t.log2 := by
        calc k * 2 ^ e ≤ 2 ^ f.precision * 2 ^ e := Nat.mul_le_mul_right _ hk.le
          _ = 2 ^ (f.precision + e) := by rw [Nat.pow_add]
          _ ≤ 2 ^ t.log2 := Nat.pow_le_pow_right (by decide) (by omega)
      have hsplit : 2 ^ t.log2 = 2 ^ (f.precision - 1) * f.quantum t := by
        unfold Fmt.quantum
        rw [← Nat.pow_add]
        congr 1
        have := f.precision_pos
        omega
      have hle : 2 ^ (f.precision - 1) ≤ nearestEven num (den * f.quantum t) := by
        apply le_nearestEven (Nat.mul_pos hd hup)
        calc 2 ^ (f.precision - 1) * (den * f.quantum t) = 2 ^ t.log2 * den := by rw [hsplit]; ring
          _ ≤ t * den := Nat.mul_le_mul_right _ (Nat.log2_self_le h0)
          _ ≤ num := Nat.div_mul_le_self num den
      calc k * 2 ^ e ≤ 2 ^ t.log2 := hk2
        _ = 2 ^ (f.precision - 1) * f.quantum t := hsplit
        _ ≤ _ := Nat.mul_le_mul_right _ hle

/-- A representable magnitude rounds to itself. -/
theorem Fmt.roundMag_exact (f : Fmt) {m den : Nat} (hd : 0 < den) (hm : f.Representable m) :
    f.roundMag (m * den) den = m :=
  Nat.le_antisymm (f.roundMag_le hd hm le_rfl) (f.le_roundMag hd hm le_rfl)

theorem Fmt.lt_two_pow_quantum (f : Fmt) (t : Nat) : t < 2 ^ (t.log2 + 1 - f.precision + f.precision) :=
  lt_of_lt_of_le Nat.lt_log2_self (Nat.pow_le_pow_right (by decide) (by omega))

/-- A rounded magnitude is representable. -/
theorem Fmt.representable_roundMag (f : Fmt) {num den : Nat} (hd : 0 < den) : f.Representable (f.roundMag num den) := by
  unfold Fmt.roundMag
  set t := num / den with ht
  have hup := f.quantum_pos t
  have hle : nearestEven num (den * f.quantum t) ≤ 2 ^ f.precision := by
    apply nearestEven_le (Nat.mul_pos hd hup)
    have h1 : num < (t + 1) * den := by
      rw [ht]
      have := Nat.lt_mul_div_succ num hd
      rwa [Nat.mul_comm]
    have h2 : t + 1 ≤ 2 ^ f.precision * f.quantum t := by
      have := f.lt_two_pow_quantum t
      unfold Fmt.quantum
      rw [← Nat.pow_add, Nat.add_comm f.precision]
      omega
    calc num ≤ (t + 1) * den := h1.le
      _ ≤ 2 ^ f.precision * f.quantum t * den := Nat.mul_le_mul_right _ h2
      _ = 2 ^ f.precision * (den * f.quantum t) := by ring
  rcases Nat.lt_or_eq_of_le hle with hlt | heq
  · exact ⟨_, _, hlt, rfl⟩
  · rw [heq]
    unfold Fmt.quantum
    rw [← Nat.pow_add]
    exact f.representable_two_pow _

/-- Rounding is monotone. -/
theorem Fmt.roundMag_mono (f : Fmt) {a b den : Nat} (hd : 0 < den) (h : a ≤ b) :
    f.roundMag a den ≤ f.roundMag b den := by
  have ht : a / den ≤ b / den := Nat.div_le_div_right h
  by_cases heq : f.quantum (a / den) = f.quantum (b / den)
  · unfold Fmt.roundMag
    rw [heq]
    exact Nat.mul_le_mul_right _ (nearestEven_mono h)
  · have hlog : (a / den).log2 ≤ (b / den).log2 := by
      rcases Nat.eq_zero_or_pos (a / den) with hz | hpos
      · rw [hz]; exact le_trans (by decide) (Nat.zero_le _)
      · exact (Nat.le_log2 (by omega)).2 (le_trans (Nat.log2_self_le hpos.ne') ht)
    have hlt : (a / den).log2 + 1 - f.precision < (b / den).log2 + 1 - f.precision := by
      rcases Nat.lt_or_ge ((a / den).log2 + 1 - f.precision) ((b / den).log2 + 1 - f.precision) with h' | h'
      · exact h'
      · exact absurd (by unfold Fmt.quantum; congr 1; omega) heq
    have hb0 : b / den ≠ 0 := by
      intro hb
      rw [hb] at hlt
      have : (0 : Nat).log2 = 0 := by decide
      have := f.precision_pos
      omega
    set M := 2 ^ ((a / den).log2 + 1 - f.precision + f.precision) with hM
    have h1 : f.roundMag a den ≤ M := by
      apply f.roundMag_le hd (f.representable_two_pow _)
      have h3 := f.lt_two_pow_quantum (a / den)
      calc a ≤ den * (a / den + 1) := (Nat.lt_mul_div_succ a hd).le
        _ ≤ den * M := Nat.mul_le_mul_left _ h3
        _ = M * den := Nat.mul_comm _ _
    have h2 : M ≤ f.roundMag b den := by
      apply f.le_roundMag hd (f.representable_two_pow _)
      have h3 : M ≤ b / den := le_trans (Nat.pow_le_pow_right (by decide) (by omega)) (Nat.log2_self_le hb0)
      exact le_trans (Nat.mul_le_mul_right _ h3) (Nat.div_mul_le_self b den)
    exact le_trans h1 h2

theorem Fmt.one_pos (f : Fmt) : 0 < f.one := Nat.two_pow_pos _

/-- A rounded value is a value of the format. -/
theorem Fmt.isValue_round (f : Fmt) (s : Bool) {num den : Nat} (hd : 0 < den) : f.IsValue (f.round s num den) := by
  unfold Fmt.round
  split
  · exact ⟨f.representable_roundMag hd, by assumption⟩
  · trivial

theorem Fmt.representable_zero (f : Fmt) : f.Representable 0 := ⟨0, 0, Nat.two_pow_pos _, by simp⟩

theorem Fmt.isValue_zero (f : Fmt) (s : Bool) : f.IsValue (.fin s 0) := ⟨f.representable_zero, Nat.zero_le _⟩

/-- Sums are values of the format. -/
theorem Fmt.isValue_add (f : Fmt) (a b : FVal) : f.IsValue (f.add a b) := by
  unfold Fmt.add
  repeat' split
  all_goals first
    | trivial
    | exact f.isValue_zero _
    | exact f.isValue_round _ Nat.one_pos

/-- Products are values of the format. -/
theorem Fmt.isValue_mul (f : Fmt) (a b : FVal) : f.IsValue (f.mul a b) := by
  unfold Fmt.mul
  repeat' split
  all_goals first
    | trivial
    | exact f.isValue_round _ f.one_pos

/-- Quotients are values of the format. -/
theorem Fmt.isValue_div (f : Fmt) (a b : FVal) : f.IsValue (f.div a b) := by
  unfold Fmt.div
  repeat' split
  all_goals first
    | trivial
    | exact f.isValue_zero _
    | exact f.isValue_round _ (by omega)

/-- A converted value is a value of the target format. -/
theorem Fmt.isValue_convert (src dst : Fmt) {x : FVal} (hx : src.IsValue x) : dst.IsValue (src.convert dst x) := by
  unfold Fmt.convert
  split
  · trivial
  · trivial
  · split
    · rename_i h; subst h; exact hx
    · exact dst.isValue_round _ src.one_pos

theorem Fmt.two_le_expMax (f : Fmt) : 2 ≤ f.expMax := by cases f <;> decide

theorem Fmt.two_pow_fracBits (f : Fmt) : 2 ^ f.precision = 2 * 2 ^ f.fracBits := by cases f <;> decide

/-- Every unpacked pattern is a value of the format. -/
theorem Fmt.isValue_unpack (f : Fmt) (b : FWord) : f.IsValue (f.unpack b) := by
  unfold Fmt.unpack
  simp only
  split
  · split <;> trivial
  · rename_i hne
    set e := b.toNat / 2 ^ f.fracBits % 2 ^ f.expBits with he
    set fr := b.toNat % 2 ^ f.fracBits with hfr
    have hfrlt : fr < 2 ^ f.fracBits := Nat.mod_lt _ (Nat.two_pow_pos _)
    have helt : e < 2 ^ f.expBits := Nat.mod_lt _ (Nat.two_pow_pos _)
    have h2 := f.two_le_expMax
    have hP := f.two_pow_fracBits
    have hemax : e ≤ f.expMax - 1 := by unfold Fmt.expMax at *; omega
    unfold Fmt.magOfFields
    split
    · refine ⟨⟨fr, 0, by omega, by simp⟩, ?_⟩
      unfold Fmt.maxMag
      have : 1 ≤ 2 ^ (f.expMax - 2) := Nat.one_le_two_pow
      calc fr ≤ 2 ^ f.precision - 1 := by omega
        _ = (2 ^ f.precision - 1) * 1 := (Nat.mul_one _).symm
        _ ≤ _ := Nat.mul_le_mul_left _ this
    · refine ⟨⟨2 ^ f.fracBits + fr, e - 1, by omega, rfl⟩, ?_⟩
      unfold Fmt.maxMag
      exact Nat.mul_le_mul (by omega) (Nat.pow_le_pow_right (by decide) (by omega))

/-- The exponent and fraction fields `packMag` writes are those of the magnitude. -/
theorem Fmt.packMag_spec (f : Fmt) {m : Nat} (hm : f.Representable m) (hmax : m ≤ f.maxMag) :
    f.packMag m / 2 ^ f.fracBits < f.expMax ∧
      f.magOfFields (f.packMag m / 2 ^ f.fracBits) (f.packMag m % 2 ^ f.fracBits) = m := by
  have hP := f.two_pow_fracBits
  have hF : 0 < 2 ^ f.fracBits := Nat.two_pow_pos _
  have h2 := f.two_le_expMax
  unfold Fmt.packMag
  simp only
  set F := 2 ^ f.fracBits with hFdef
  by_cases hk : m.log2 + 1 - f.precision = 0
  · rw [hk]
    have hlt : m < 2 * F := by
      have h := Nat.lt_log2_self (n := m)
      have : 2 ^ (m.log2 + 1) ≤ 2 ^ f.precision := Nat.pow_le_pow_right (by decide) (by omega)
      omega
    simp only [Nat.zero_mul, Nat.zero_add, pow_zero, Nat.div_one]
    unfold Fmt.magOfFields
    rcases Nat.lt_or_ge m F with hs | hs
    · rw [Nat.div_eq_of_lt hs, Nat.mod_eq_of_lt hs]
      exact ⟨by omega, by simp⟩
    · have hd : m / F = 1 := by
        apply Nat.div_eq_of_lt_le <;> omega
      have hmod : m % F = m - F := by
        rw [Nat.mod_eq_sub_mod hs, Nat.mod_eq_of_lt (by omega)]
      rw [hd, hmod]
      refine ⟨by omega, ?_⟩
      simp only [one_ne_zero, if_false, Nat.sub_self, pow_zero, Nat.mul_one, ← hFdef]
      omega
  · have hm0 : m ≠ 0 := by
      rintro rfl
      apply hk
      have := f.precision_pos
      have : (0 : Nat).log2 = 0 := by decide
      omega
    set k := m.log2 + 1 - f.precision with hkdef
    have hdvd : 2 ^ k ∣ m := f.quantum_dvd hm le_rfl hm0
    obtain ⟨c, hc⟩ := hdvd
    have hkp : 0 < 2 ^ k := Nat.two_pow_pos _
    have hdiv : m / 2 ^ k = c := by rw [hc, Nat.mul_div_cancel_left _ hkp]
    have hpr := f.precision_pos
    have hlow : F ≤ c := by
      have h := Nat.log2_self_le hm0
      rw [hc] at h
      have hs : 2 ^ (2 ^ k * c).log2 = 2 ^ k * F := by
        rw [hFdef, ← Nat.pow_add, ← hc]
        congr 1
        unfold Fmt.fracBits
        omega
      rw [hs] at h
      exact Nat.le_of_mul_le_mul_left h hkp
    have hhigh : c < 2 * F := by
      have h := Nat.lt_log2_self (n := m)
      have hs : 2 ^ (m.log2 + 1) = 2 ^ k * (2 * F) := by
        rw [← hP, ← Nat.pow_add]
        congr 1
        omega
      rw [hs, hc] at h
      exact Nat.lt_of_mul_lt_mul_left h
    have hkmax : k ≤ f.expMax - 2 := by
      by_contra hgt
      have h3 : f.maxMag < 2 ^ k * F := by
        unfold Fmt.maxMag
        have h4 : 2 ^ (f.expMax - 2 + 1) ≤ 2 ^ k := Nat.pow_le_pow_right (by decide) (by omega)
        have h5 : 0 < 2 ^ (f.expMax - 2) := Nat.two_pow_pos _
        calc (2 ^ f.precision - 1) * 2 ^ (f.expMax - 2) < 2 ^ f.precision * 2 ^ (f.expMax - 2) :=
              Nat.mul_lt_mul_of_pos_right (by omega) h5
          _ = 2 ^ (f.expMax - 2 + 1) * F := by rw [hP, Nat.pow_succ]; ring
          _ ≤ 2 ^ k * F := Nat.mul_le_mul_right _ h4
      have h6 : 2 ^ k * F ≤ m := by rw [hc]; exact Nat.mul_le_mul_left _ hlow
      omega
    rw [hdiv]
    have hc2 : c / F = 1 := by apply Nat.div_eq_of_lt_le <;> omega
    have hcm : c % F = c - F := by rw [Nat.mod_eq_sub_mod hlow, Nat.mod_eq_of_lt (by omega)]
    have hq : (k * F + c) / F = k + 1 := by
      rw [Nat.add_comm, Nat.add_mul_div_right _ _ hF, hc2, Nat.add_comm]
    have hr : (k * F + c) % F = c - F := by
      rw [Nat.add_comm, Nat.add_mul_mod_self_right, hcm]
    rw [hq, hr]
    refine ⟨by omega, ?_⟩
    unfold Fmt.magOfFields
    rw [if_neg (by omega), ← hFdef, Nat.add_sub_cancel, hc]
    rw [show F + (c - F) = c by omega, Nat.mul_comm]

theorem Fmt.bits_le (f : Fmt) : f.magBits + 1 ≤ 64 := by cases f <;> decide

theorem Fmt.two_pow_magBits (f : Fmt) : 2 ^ f.magBits = 2 ^ f.expBits * 2 ^ f.fracBits := by
  unfold Fmt.magBits
  rw [Nat.pow_add]

theorem Fmt.expMax_lt (f : Fmt) : f.expMax < 2 ^ f.expBits := by cases f <;> decide

theorem Fmt.packMag_lt (f : Fmt) {m : Nat} (hm : f.Representable m) (hmax : m ≤ f.maxMag) :
    f.packMag m < 2 ^ f.magBits := by
  have h := (f.packMag_spec hm hmax).1
  rw [f.two_pow_magBits]
  have hF : 0 < 2 ^ f.fracBits := Nat.two_pow_pos _
  have : f.packMag m / 2 ^ f.fracBits < 2 ^ f.expBits := lt_trans h f.expMax_lt
  exact (Nat.div_lt_iff_lt_mul hF).1 this

/-- Unpacking the pattern of a finite value gives it back. -/
theorem Fmt.unpack_pack_fin (f : Fmt) (raw : BitVec 64) {s : Bool} {m : Nat} (h : f.IsValue (.fin s m)) :
    f.unpack (f.pack raw (.fin s m)) = .fin s m := by
  obtain ⟨hm, hmax⟩ := h
  have hlt := f.packMag_lt hm hmax
  have hspec := f.packMag_spec hm hmax
  have hB : (2 : Nat) ^ f.magBits * 2 ≤ 2 ^ 64 := by
    rw [← Nat.pow_succ]
    exact Nat.pow_le_pow_right (by decide) f.bits_le
  have hMpos : 0 < 2 ^ f.magBits := Nat.two_pow_pos _
  have hnat : (f.pack raw (.fin s m)).toNat = f.signBits s + f.packMag m := by
    unfold Fmt.pack
    rw [BitVec.toNat_ofNat, Nat.mod_eq_of_lt]
    unfold Fmt.signBits
    split <;> omega
  have hmb := f.two_pow_magBits
  unfold Fmt.unpack
  simp only [hnat]
  have hsign : ((f.signBits s + f.packMag m) / 2 ^ f.magBits % 2 == 1) = s := by
    unfold Fmt.signBits
    cases s
    · simp [Nat.div_eq_of_lt hlt]
    · simp [Nat.add_div_left _ hMpos, Nat.div_eq_of_lt hlt]
  have hexp : (f.signBits s + f.packMag m) / 2 ^ f.fracBits % 2 ^ f.expBits = f.packMag m / 2 ^ f.fracBits := by
    have hF : 0 < 2 ^ f.fracBits := Nat.two_pow_pos _
    have hle : f.packMag m / 2 ^ f.fracBits < 2 ^ f.expBits :=
      lt_trans hspec.1 f.expMax_lt
    unfold Fmt.signBits
    cases s
    · simpa using Nat.mod_eq_of_lt hle
    · simp only [if_true, hmb]
      rw [Nat.add_comm, Nat.add_mul_div_right _ _ hF, Nat.add_mod_right, Nat.mod_eq_of_lt hle]
  have hfrac : (f.signBits s + f.packMag m) % 2 ^ f.fracBits = f.packMag m % 2 ^ f.fracBits := by
    unfold Fmt.signBits
    cases s
    · simp
    · simp only [if_true, hmb]
      rw [Nat.add_comm, Nat.add_mul_mod_self_right]
  rw [hsign, hexp, hfrac, if_neg (by omega), hspec.2]

end Sys2Proof
end

