-- ==== Sys2Proof/Laws/Memory.lean ====
section
/-! SUPPORT. The ring buffer's operations keep its canonical form, and an access reaches an index below N. -/

namespace Sys2Proof.Machine

theorem ringIndex_lt (i : Int) : ringIndex i < ringSize := by
  unfold ringIndex
  have h1 : 0 ≤ i % (ringSize : Int) := Int.emod_nonneg _ (by decide)
  have h2 : i % (ringSize : Int) < ringSize := Int.emod_lt_of_pos _ (by decide)
  omega

theorem mem_cellInsert {i : Nat} {v : Sample} {c : Nat × Sample} {l : List (Nat × Sample)}
    (h : c ∈ cellInsert i v l) : c = (i, v) ∨ c ∈ l := by
  induction l with
  | nil => simpa [cellInsert] using h
  | cons d rest ih =>
    simp only [cellInsert] at h
    split at h
    · simpa using h
    · split at h
      · rcases List.mem_cons.1 h with h | h
        · exact .inl h
        · exact .inr (List.mem_cons_of_mem _ h)
      · rcases List.mem_cons.1 h with h | h
        · exact .inr (h ▸ List.mem_cons_self)
        · rcases ih h with h | h
          · exact .inl h
          · exact .inr (List.mem_cons_of_mem _ h)

theorem mem_cellErase {i : Nat} {c : Nat × Sample} {l : List (Nat × Sample)} (h : c ∈ cellErase i l) : c ∈ l := by
  induction l with
  | nil => simp [cellErase] at h
  | cons d rest ih =>
    simp only [cellErase] at h
    split at h
    · exact List.mem_cons_of_mem _ h
    · rcases List.mem_cons.1 h with h | h
      · exact h ▸ List.mem_cons_self
      · exact List.mem_cons_of_mem _ (ih h)

theorem cellErase_rising {i : Nat} {l : List (Nat × Sample)} (h : l.Pairwise fun a b => a.1 < b.1) :
    (cellErase i l).Pairwise fun a b => a.1 < b.1 := by
  induction l with
  | nil => simp [cellErase]
  | cons d rest ih =>
    obtain ⟨hd, hr⟩ := List.pairwise_cons.1 h
    simp only [cellErase]
    split
    · exact hr
    · exact List.pairwise_cons.2 ⟨fun c hc => hd c (mem_cellErase hc), ih hr⟩

theorem cellInsert_rising {i : Nat} {v : Sample} {l : List (Nat × Sample)} (h : l.Pairwise fun a b => a.1 < b.1) :
    (cellInsert i v l).Pairwise fun a b => a.1 < b.1 := by
  induction l with
  | nil => simp [cellInsert]
  | cons d rest ih =>
    obtain ⟨hd, hr⟩ := List.pairwise_cons.1 h
    simp only [cellInsert]
    split
    · rename_i hlt
      refine List.pairwise_cons.2 ⟨fun c hc => ?_, h⟩
      rcases List.mem_cons.1 hc with hc | hc
      · exact hc ▸ hlt
      · exact lt_trans hlt (hd c hc)
    · split
      · rename_i _ heq
        exact List.pairwise_cons.2 ⟨fun c hc => heq ▸ hd c hc, hr⟩
      · rename_i hnlt hne
        refine List.pairwise_cons.2 ⟨fun c hc => ?_, ih hr⟩
        rcases mem_cellInsert hc with hc | hc
        · rw [hc]; simp only; omega
        · exact hd c hc

/-- MemWrite keeps the canonical form. -/
theorem Memory.memWrite_wf {m : Memory} (h : m.wf) (i : Int) (v : Sample) : (m.memWrite i v).wf := by
  obtain ⟨hp, hc⟩ := h
  unfold Memory.memWrite Memory.writeAt Memory.wf
  have hu : ∀ l : List (Nat × Sample), Memory.unlisted ⟨m.fill, l⟩ = m.unlisted := fun _ => rfl
  simp only [hu]
  split
  · exact ⟨cellErase_rising hp, fun c hm => hc c (mem_cellErase hm)⟩
  · rename_i hv
    refine ⟨cellInsert_rising hp, fun c hm => ?_⟩
    rcases mem_cellInsert hm with rfl | hm
    · exact ⟨ringIndex_lt i, hv⟩
    · exact hc c hm

/-- RB.WRITE keeps the canonical form. -/
theorem Memory.rbWrite_wf {m : Memory} (h : m.wf) (i : Int) (v : Sample) : (m.rbWrite i v).wf := m.memWrite_wf h i v

@[simp] theorem Memory.rbWrite_fill (m : Memory) (i : Int) (v : Sample) : (m.rbWrite i v).fill = m.fill := rfl

/-- A ring buffer with nothing listed is canonical, whatever its unlisted words read as. -/
theorem Memory.empty_wf (f : Fill) : Memory.wf ⟨f, []⟩ := ⟨List.Pairwise.nil, by simp⟩

theorem Memory.zeroFilled_wf : Memory.zeroFilled.wf := Memory.empty_wf _

/-- The ring buffer after power-on reset is canonical. -/
theorem State.reset_rb_wf : State.reset.rb.wf := Memory.empty_wf _

/-- Every word of a zero-filled ring buffer reads +0.0. -/
theorem Memory.zeroFilled_memRead (i : Int) : Memory.zeroFilled.memRead i = 0#32 := rfl

end Sys2Proof.Machine
end

