-- ==== Sys2Proof/Laws/State.lean ====
section
/-! SUPPORT. One lemma per field of State for each update of it: what the update leaves there. Each is true by unfolding. -/

namespace Sys2Proof.Machine

variable (s : State)

/-! `State.respond` -/

@[simp] theorem State.respond_params (code : BitVec 8) : (s.respond code).params = s.params := rfl
@[simp] theorem State.respond_session (code : BitVec 8) : (s.respond code).session = s.session := rfl
@[simp] theorem State.respond_sampleRate (code : BitVec 8) : (s.respond code).sampleRate = s.sampleRate := rfl
@[simp] theorem State.respond_feedbackTarget (code : BitVec 8) :
    (s.respond code).feedbackTarget = s.feedbackTarget := rfl
@[simp] theorem State.respond_smoothedFeedback (code : BitVec 8) :
    (s.respond code).smoothedFeedback = s.smoothedFeedback := rfl
@[simp] theorem State.respond_frequencyTarget (code : BitVec 8) :
    (s.respond code).frequencyTarget = s.frequencyTarget := rfl
@[simp] theorem State.respond_smoothedDelaySamples (code : BitVec 8) :
    (s.respond code).smoothedDelaySamples = s.smoothedDelaySamples := rfl
@[simp] theorem State.respond_writePointer (code : BitVec 8) : (s.respond code).writePointer = s.writePointer := rfl
@[simp] theorem State.respond_rb (code : BitVec 8) : (s.respond code).rb = s.rb := rfl
@[simp] theorem State.respond_mbxFb (code : BitVec 8) : (s.respond code).mbxFb = s.mbxFb := rfl
@[simp] theorem State.respond_mbxFq (code : BitVec 8) : (s.respond code).mbxFq = s.mbxFq := rfl
@[simp] theorem State.respond_fault (code : BitVec 8) : (s.respond code).fault = s.fault := rfl
@[simp] theorem State.respond_seq (code : BitVec 8) : (s.respond code).seq = s.seq := rfl
@[simp] theorem State.respond_blockLen (code : BitVec 8) : (s.respond code).blockLen = s.blockLen := rfl
@[simp] theorem State.respond_blockDone (code : BitVec 8) : (s.respond code).blockDone = s.blockDone := rfl
@[simp] theorem State.respond_cmd (code : BitVec 8) : (s.respond code).cmd = s.cmd := rfl
@[simp] theorem State.respond_ctl (code : BitVec 8) : (s.respond code).ctl = s.ctl := rfl
@[simp] theorem State.respond_sin (code : BitVec 8) : (s.respond code).sin = s.sin := rfl
@[simp] theorem State.respond_rsp (code : BitVec 8) : (s.respond code).rsp = s.rsp ++ [rspWord code] := rfl
@[simp] theorem State.respond_sout (code : BitVec 8) : (s.respond code).sout = s.sout := rfl
@[simp] theorem State.respond_turns (code : BitVec 8) : (s.respond code).turns = s.turns := rfl
@[simp] theorem State.respond_draws (code : BitVec 8) : (s.respond code).draws = s.draws := rfl
@[simp] theorem State.respond_fmt (code : BitVec 8) : (s.respond code).fmt = s.fmt := rfl
@[simp] theorem State.respond_fval (code : BitVec 8) (w : FWord) : (s.respond code).fval w = s.fval w := rfl

/-! `State.raise` -/

@[simp] theorem State.raise_params (c : FaultCode) : (s.raise c).params = s.params := rfl
@[simp] theorem State.raise_session (c : FaultCode) : (s.raise c).session = s.session := rfl
@[simp] theorem State.raise_sampleRate (c : FaultCode) : (s.raise c).sampleRate = s.sampleRate := rfl
@[simp] theorem State.raise_feedbackTarget (c : FaultCode) : (s.raise c).feedbackTarget = s.feedbackTarget := rfl
@[simp] theorem State.raise_smoothedFeedback (c : FaultCode) :
    (s.raise c).smoothedFeedback = s.smoothedFeedback := rfl
@[simp] theorem State.raise_frequencyTarget (c : FaultCode) : (s.raise c).frequencyTarget = s.frequencyTarget := rfl
@[simp] theorem State.raise_smoothedDelaySamples (c : FaultCode) :
    (s.raise c).smoothedDelaySamples = s.smoothedDelaySamples := rfl
@[simp] theorem State.raise_writePointer (c : FaultCode) : (s.raise c).writePointer = s.writePointer := rfl
@[simp] theorem State.raise_rb (c : FaultCode) : (s.raise c).rb = s.rb := rfl
@[simp] theorem State.raise_mbxFb (c : FaultCode) : (s.raise c).mbxFb = s.mbxFb := rfl
@[simp] theorem State.raise_mbxFq (c : FaultCode) : (s.raise c).mbxFq = s.mbxFq := rfl
@[simp] theorem State.raise_fault (c : FaultCode) :
    (s.raise c).fault = if s.fault = 0#8 then c.code else s.fault := rfl
@[simp] theorem State.raise_seq (c : FaultCode) : (s.raise c).seq = s.seq := rfl
@[simp] theorem State.raise_blockLen (c : FaultCode) : (s.raise c).blockLen = s.blockLen := rfl
@[simp] theorem State.raise_blockDone (c : FaultCode) : (s.raise c).blockDone = s.blockDone := rfl
@[simp] theorem State.raise_cmd (c : FaultCode) : (s.raise c).cmd = s.cmd := rfl
@[simp] theorem State.raise_ctl (c : FaultCode) : (s.raise c).ctl = s.ctl := rfl
@[simp] theorem State.raise_sin (c : FaultCode) : (s.raise c).sin = s.sin := rfl
@[simp] theorem State.raise_rsp (c : FaultCode) : (s.raise c).rsp = s.rsp := rfl
@[simp] theorem State.raise_sout (c : FaultCode) : (s.raise c).sout = s.sout := rfl
@[simp] theorem State.raise_turns (c : FaultCode) : (s.raise c).turns = s.turns := rfl
@[simp] theorem State.raise_draws (c : FaultCode) : (s.raise c).draws = s.draws := rfl
@[simp] theorem State.raise_fmt (c : FaultCode) : (s.raise c).fmt = s.fmt := rfl
@[simp] theorem State.raise_fval (c : FaultCode) (w : FWord) : (s.raise c).fval w = s.fval w := rfl

/-! `State.faultCmd` -/

@[simp] theorem State.faultCmd_params (c : FaultCode) : (s.faultCmd c).params = s.params := rfl
@[simp] theorem State.faultCmd_session (c : FaultCode) : (s.faultCmd c).session = s.session := rfl
@[simp] theorem State.faultCmd_sampleRate (c : FaultCode) : (s.faultCmd c).sampleRate = s.sampleRate := rfl
@[simp] theorem State.faultCmd_feedbackTarget (c : FaultCode) :
    (s.faultCmd c).feedbackTarget = s.feedbackTarget := rfl
@[simp] theorem State.faultCmd_smoothedFeedback (c : FaultCode) :
    (s.faultCmd c).smoothedFeedback = s.smoothedFeedback := rfl
@[simp] theorem State.faultCmd_frequencyTarget (c : FaultCode) :
    (s.faultCmd c).frequencyTarget = s.frequencyTarget := rfl
@[simp] theorem State.faultCmd_smoothedDelaySamples (c : FaultCode) :
    (s.faultCmd c).smoothedDelaySamples = s.smoothedDelaySamples := rfl
@[simp] theorem State.faultCmd_writePointer (c : FaultCode) : (s.faultCmd c).writePointer = s.writePointer := rfl
@[simp] theorem State.faultCmd_rb (c : FaultCode) : (s.faultCmd c).rb = s.rb := rfl
@[simp] theorem State.faultCmd_mbxFb (c : FaultCode) : (s.faultCmd c).mbxFb = s.mbxFb := rfl
@[simp] theorem State.faultCmd_mbxFq (c : FaultCode) : (s.faultCmd c).mbxFq = s.mbxFq := rfl
@[simp] theorem State.faultCmd_fault (c : FaultCode) :
    (s.faultCmd c).fault = if s.fault = 0#8 then c.code else s.fault := rfl
@[simp] theorem State.faultCmd_seq (c : FaultCode) : (s.faultCmd c).seq = s.seq := rfl
@[simp] theorem State.faultCmd_blockLen (c : FaultCode) : (s.faultCmd c).blockLen = s.blockLen := rfl
@[simp] theorem State.faultCmd_blockDone (c : FaultCode) : (s.faultCmd c).blockDone = s.blockDone := rfl
@[simp] theorem State.faultCmd_cmd (c : FaultCode) : (s.faultCmd c).cmd = s.cmd := rfl
@[simp] theorem State.faultCmd_ctl (c : FaultCode) : (s.faultCmd c).ctl = s.ctl := rfl
@[simp] theorem State.faultCmd_sin (c : FaultCode) : (s.faultCmd c).sin = s.sin := rfl
@[simp] theorem State.faultCmd_rsp (c : FaultCode) : (s.faultCmd c).rsp = s.rsp ++ [rspWord c.response] := rfl
@[simp] theorem State.faultCmd_sout (c : FaultCode) : (s.faultCmd c).sout = s.sout := rfl
@[simp] theorem State.faultCmd_turns (c : FaultCode) : (s.faultCmd c).turns = s.turns := rfl
@[simp] theorem State.faultCmd_draws (c : FaultCode) : (s.faultCmd c).draws = s.draws := rfl
@[simp] theorem State.faultCmd_fmt (c : FaultCode) : (s.faultCmd c).fmt = s.fmt := rfl
@[simp] theorem State.faultCmd_fval (c : FaultCode) (w : FWord) : (s.faultCmd c).fval w = s.fval w := rfl

/-! `State.loseEngine` -/

@[simp] theorem State.loseEngine_params : s.loseEngine.params = s.params := rfl
@[simp] theorem State.loseEngine_session : s.loseEngine.session = s.session := rfl
@[simp] theorem State.loseEngine_sampleRate : s.loseEngine.sampleRate = (s.drawn 0).setWidth 32 := rfl
@[simp] theorem State.loseEngine_feedbackTarget : s.loseEngine.feedbackTarget = s.fmt.trim (s.drawn 1) := rfl
@[simp] theorem State.loseEngine_smoothedFeedback : s.loseEngine.smoothedFeedback = s.fmt.trim (s.drawn 2) := rfl
@[simp] theorem State.loseEngine_frequencyTarget : s.loseEngine.frequencyTarget = s.fmt.trim (s.drawn 3) := rfl
@[simp] theorem State.loseEngine_smoothedDelaySamples :
    s.loseEngine.smoothedDelaySamples = s.fmt.trim (s.drawn 4) := rfl
@[simp] theorem State.loseEngine_writePointer : s.loseEngine.writePointer = (s.drawn 5).setWidth 24 := rfl
@[simp] theorem State.loseEngine_rb : s.loseEngine.rb = ⟨.free s.draws, []⟩ := rfl
@[simp] theorem State.loseEngine_mbxFb : s.loseEngine.mbxFb = s.mbxFb := rfl
@[simp] theorem State.loseEngine_mbxFq : s.loseEngine.mbxFq = s.mbxFq := rfl
@[simp] theorem State.loseEngine_fault : s.loseEngine.fault = s.fault := rfl
@[simp] theorem State.loseEngine_seq : s.loseEngine.seq = s.seq := rfl
@[simp] theorem State.loseEngine_blockLen : s.loseEngine.blockLen = s.blockLen := rfl
@[simp] theorem State.loseEngine_blockDone : s.loseEngine.blockDone = s.blockDone := rfl
@[simp] theorem State.loseEngine_cmd : s.loseEngine.cmd = s.cmd := rfl
@[simp] theorem State.loseEngine_ctl : s.loseEngine.ctl = s.ctl := rfl
@[simp] theorem State.loseEngine_sin : s.loseEngine.sin = s.sin := rfl
@[simp] theorem State.loseEngine_rsp : s.loseEngine.rsp = s.rsp := rfl
@[simp] theorem State.loseEngine_sout : s.loseEngine.sout = s.sout := rfl
@[simp] theorem State.loseEngine_turns : s.loseEngine.turns = s.turns := rfl
@[simp] theorem State.loseEngine_draws : s.loseEngine.draws = s.draws + 6 := rfl
@[simp] theorem State.loseEngine_fmt : s.loseEngine.fmt = s.fmt := rfl
@[simp] theorem State.loseEngine_fval (w : FWord) : s.loseEngine.fval w = s.fval w := rfl

/-! `State.shutdown` -/

@[simp] theorem State.shutdown_params : s.shutdown.params = s.params := rfl
@[simp] theorem State.shutdown_session : s.shutdown.session = .terminated := rfl
@[simp] theorem State.shutdown_sampleRate : s.shutdown.sampleRate = s.sampleRate := rfl
@[simp] theorem State.shutdown_feedbackTarget : s.shutdown.feedbackTarget = s.feedbackTarget := rfl
@[simp] theorem State.shutdown_smoothedFeedback : s.shutdown.smoothedFeedback = s.smoothedFeedback := rfl
@[simp] theorem State.shutdown_frequencyTarget : s.shutdown.frequencyTarget = s.frequencyTarget := rfl
@[simp] theorem State.shutdown_smoothedDelaySamples : s.shutdown.smoothedDelaySamples = s.smoothedDelaySamples := rfl
@[simp] theorem State.shutdown_writePointer : s.shutdown.writePointer = s.writePointer := rfl
@[simp] theorem State.shutdown_rb : s.shutdown.rb = s.rb := rfl
@[simp] theorem State.shutdown_mbxFb : s.shutdown.mbxFb = s.mbxFb := rfl
@[simp] theorem State.shutdown_mbxFq : s.shutdown.mbxFq = s.mbxFq := rfl
@[simp] theorem State.shutdown_fault :
    s.shutdown.fault = if s.fault = 0#8 then FaultCode.hostShutdown.code else s.fault := rfl
@[simp] theorem State.shutdown_seq : s.shutdown.seq = s.seq := rfl
@[simp] theorem State.shutdown_blockLen : s.shutdown.blockLen = s.blockLen := rfl
@[simp] theorem State.shutdown_blockDone : s.shutdown.blockDone = s.blockDone := rfl
@[simp] theorem State.shutdown_cmd : s.shutdown.cmd = s.cmd := rfl
@[simp] theorem State.shutdown_ctl : s.shutdown.ctl = s.ctl := rfl
@[simp] theorem State.shutdown_sin : s.shutdown.sin = s.sin := rfl
@[simp] theorem State.shutdown_rsp : s.shutdown.rsp = s.rsp := rfl
@[simp] theorem State.shutdown_sout : s.shutdown.sout = s.sout := rfl
@[simp] theorem State.shutdown_turns : s.shutdown.turns = s.turns := rfl
@[simp] theorem State.shutdown_draws : s.shutdown.draws = s.draws := rfl
@[simp] theorem State.shutdown_fmt : s.shutdown.fmt = s.fmt := rfl
@[simp] theorem State.shutdown_fval (w : FWord) : s.shutdown.fval w = s.fval w := rfl

/-! `State.powerOn` -/

@[simp] theorem State.powerOn_params : s.powerOn.params = s.params := rfl
@[simp] theorem State.powerOn_session : s.powerOn.session = .idle := rfl
@[simp] theorem State.powerOn_sampleRate : s.powerOn.sampleRate = (s.drawn 0).setWidth 32 := rfl
@[simp] theorem State.powerOn_feedbackTarget : s.powerOn.feedbackTarget = s.fmt.trim (s.drawn 1) := rfl
@[simp] theorem State.powerOn_smoothedFeedback : s.powerOn.smoothedFeedback = s.fmt.trim (s.drawn 2) := rfl
@[simp] theorem State.powerOn_frequencyTarget : s.powerOn.frequencyTarget = s.fmt.trim (s.drawn 3) := rfl
@[simp] theorem State.powerOn_smoothedDelaySamples : s.powerOn.smoothedDelaySamples = s.fmt.trim (s.drawn 4) := rfl
@[simp] theorem State.powerOn_writePointer : s.powerOn.writePointer = (s.drawn 5).setWidth 24 := rfl
@[simp] theorem State.powerOn_rb : s.powerOn.rb = ⟨.free s.draws, []⟩ := rfl
@[simp] theorem State.powerOn_mbxFb : s.powerOn.mbxFb = ⟨false, s.fmt.trim (s.loseEngine.drawn 0)⟩ := rfl
@[simp] theorem State.powerOn_mbxFq : s.powerOn.mbxFq = ⟨false, s.fmt.trim (s.loseEngine.drawn 1)⟩ := rfl
@[simp] theorem State.powerOn_fault : s.powerOn.fault = 0#8 := rfl
@[simp] theorem State.powerOn_seq : s.powerOn.seq = .ready := rfl
@[simp] theorem State.powerOn_blockLen : s.powerOn.blockLen = (s.loseEngine.drawn 2).setWidth 32 := rfl
@[simp] theorem State.powerOn_blockDone : s.powerOn.blockDone = (s.loseEngine.drawn 3).setWidth 32 := rfl
@[simp] theorem State.powerOn_cmd : s.powerOn.cmd = s.cmd := rfl
@[simp] theorem State.powerOn_ctl : s.powerOn.ctl = s.ctl := rfl
@[simp] theorem State.powerOn_sin : s.powerOn.sin = s.sin := rfl
@[simp] theorem State.powerOn_rsp : s.powerOn.rsp = s.rsp := rfl
@[simp] theorem State.powerOn_sout : s.powerOn.sout = s.sout := rfl
@[simp] theorem State.powerOn_turns : s.powerOn.turns = s.turns := rfl
@[simp] theorem State.powerOn_draws : s.powerOn.draws = s.draws + 10 := rfl
@[simp] theorem State.powerOn_fmt : s.powerOn.fmt = s.fmt := rfl
@[simp] theorem State.powerOn_fval (w : FWord) : s.powerOn.fval w = s.fval w := rfl

/-! `State.drain` -/

@[simp] theorem State.drain_params : s.drain.params = s.params := rfl
@[simp] theorem State.drain_session : s.drain.session = s.session := rfl
@[simp] theorem State.drain_sampleRate : s.drain.sampleRate = s.sampleRate := rfl
@[simp] theorem State.drain_feedbackTarget : s.drain.feedbackTarget = s.mbxFb.drainInto s.feedbackTarget := rfl
@[simp] theorem State.drain_smoothedFeedback : s.drain.smoothedFeedback = s.smoothedFeedback := rfl
@[simp] theorem State.drain_frequencyTarget : s.drain.frequencyTarget = s.mbxFq.drainInto s.frequencyTarget := rfl
@[simp] theorem State.drain_smoothedDelaySamples : s.drain.smoothedDelaySamples = s.smoothedDelaySamples := rfl
@[simp] theorem State.drain_writePointer : s.drain.writePointer = s.writePointer := rfl
@[simp] theorem State.drain_rb : s.drain.rb = s.rb := rfl
@[simp] theorem State.drain_mbxFb : s.drain.mbxFb = s.mbxFb.cleared := rfl
@[simp] theorem State.drain_mbxFq : s.drain.mbxFq = s.mbxFq.cleared := rfl
@[simp] theorem State.drain_fault : s.drain.fault = s.fault := rfl
@[simp] theorem State.drain_seq : s.drain.seq = s.seq := rfl
@[simp] theorem State.drain_blockLen : s.drain.blockLen = s.blockLen := rfl
@[simp] theorem State.drain_blockDone : s.drain.blockDone = s.blockDone := rfl
@[simp] theorem State.drain_cmd : s.drain.cmd = s.cmd := rfl
@[simp] theorem State.drain_ctl : s.drain.ctl = s.ctl := rfl
@[simp] theorem State.drain_sin : s.drain.sin = s.sin := rfl
@[simp] theorem State.drain_rsp : s.drain.rsp = s.rsp := rfl
@[simp] theorem State.drain_sout : s.drain.sout = s.sout := rfl
@[simp] theorem State.drain_turns : s.drain.turns = s.turns := rfl
@[simp] theorem State.drain_draws : s.drain.draws = s.draws := rfl
@[simp] theorem State.drain_fmt : s.drain.fmt = s.fmt := rfl
@[simp] theorem State.drain_fval (w : FWord) : s.drain.fval w = s.fval w := rfl

/-! `State.smoothDelay` -/

@[simp] theorem State.smoothDelay_params (td : FVal) : (s.smoothDelay td).params = s.params := rfl
@[simp] theorem State.smoothDelay_session (td : FVal) : (s.smoothDelay td).session = s.session := rfl
@[simp] theorem State.smoothDelay_sampleRate (td : FVal) : (s.smoothDelay td).sampleRate = s.sampleRate := rfl
@[simp] theorem State.smoothDelay_feedbackTarget (td : FVal) :
    (s.smoothDelay td).feedbackTarget = s.feedbackTarget := rfl
@[simp] theorem State.smoothDelay_smoothedFeedback (td : FVal) :
    (s.smoothDelay td).smoothedFeedback = s.smoothedFeedback := rfl
@[simp] theorem State.smoothDelay_frequencyTarget (td : FVal) :
    (s.smoothDelay td).frequencyTarget = s.frequencyTarget := rfl
@[simp] theorem State.smoothDelay_smoothedDelaySamples (td : FVal) :
    (s.smoothDelay td).smoothedDelaySamples = smoothReg s.fmt s.fmt.kDn s.fmt.kDo td s.smoothedDelaySamples := rfl
@[simp] theorem State.smoothDelay_writePointer (td : FVal) : (s.smoothDelay td).writePointer = s.writePointer := rfl
@[simp] theorem State.smoothDelay_rb (td : FVal) : (s.smoothDelay td).rb = s.rb := rfl
@[simp] theorem State.smoothDelay_mbxFb (td : FVal) : (s.smoothDelay td).mbxFb = s.mbxFb := rfl
@[simp] theorem State.smoothDelay_mbxFq (td : FVal) : (s.smoothDelay td).mbxFq = s.mbxFq := rfl
@[simp] theorem State.smoothDelay_fault (td : FVal) : (s.smoothDelay td).fault = s.fault := rfl
@[simp] theorem State.smoothDelay_seq (td : FVal) : (s.smoothDelay td).seq = s.seq := rfl
@[simp] theorem State.smoothDelay_blockLen (td : FVal) : (s.smoothDelay td).blockLen = s.blockLen := rfl
@[simp] theorem State.smoothDelay_blockDone (td : FVal) : (s.smoothDelay td).blockDone = s.blockDone := rfl
@[simp] theorem State.smoothDelay_cmd (td : FVal) : (s.smoothDelay td).cmd = s.cmd := rfl
@[simp] theorem State.smoothDelay_ctl (td : FVal) : (s.smoothDelay td).ctl = s.ctl := rfl
@[simp] theorem State.smoothDelay_sin (td : FVal) : (s.smoothDelay td).sin = s.sin := rfl
@[simp] theorem State.smoothDelay_rsp (td : FVal) : (s.smoothDelay td).rsp = s.rsp := rfl
@[simp] theorem State.smoothDelay_sout (td : FVal) : (s.smoothDelay td).sout = s.sout := rfl
@[simp] theorem State.smoothDelay_turns (td : FVal) : (s.smoothDelay td).turns = s.turns := rfl
@[simp] theorem State.smoothDelay_draws (td : FVal) : (s.smoothDelay td).draws = s.draws := rfl
@[simp] theorem State.smoothDelay_fmt (td : FVal) : (s.smoothDelay td).fmt = s.fmt := rfl
@[simp] theorem State.smoothDelay_fval (td : FVal) (w : FWord) : (s.smoothDelay td).fval w = s.fval w := rfl

/-! `State.smoothFeedback` -/

@[simp] theorem State.smoothFeedback_params : s.smoothFeedback.params = s.params := rfl
@[simp] theorem State.smoothFeedback_session : s.smoothFeedback.session = s.session := rfl
@[simp] theorem State.smoothFeedback_sampleRate : s.smoothFeedback.sampleRate = s.sampleRate := rfl
@[simp] theorem State.smoothFeedback_feedbackTarget : s.smoothFeedback.feedbackTarget = s.feedbackTarget := rfl
@[simp] theorem State.smoothFeedback_smoothedFeedback :
    s.smoothFeedback.smoothedFeedback = smoothReg s.fmt s.fmt.kFn s.fmt.kFo (s.fval s.feedbackTarget) s.smoothedFeedback := rfl
@[simp] theorem State.smoothFeedback_frequencyTarget : s.smoothFeedback.frequencyTarget = s.frequencyTarget := rfl
@[simp] theorem State.smoothFeedback_smoothedDelaySamples :
    s.smoothFeedback.smoothedDelaySamples = s.smoothedDelaySamples := rfl
@[simp] theorem State.smoothFeedback_writePointer : s.smoothFeedback.writePointer = s.writePointer := rfl
@[simp] theorem State.smoothFeedback_rb : s.smoothFeedback.rb = s.rb := rfl
@[simp] theorem State.smoothFeedback_mbxFb : s.smoothFeedback.mbxFb = s.mbxFb := rfl
@[simp] theorem State.smoothFeedback_mbxFq : s.smoothFeedback.mbxFq = s.mbxFq := rfl
@[simp] theorem State.smoothFeedback_fault : s.smoothFeedback.fault = s.fault := rfl
@[simp] theorem State.smoothFeedback_seq : s.smoothFeedback.seq = s.seq := rfl
@[simp] theorem State.smoothFeedback_blockLen : s.smoothFeedback.blockLen = s.blockLen := rfl
@[simp] theorem State.smoothFeedback_blockDone : s.smoothFeedback.blockDone = s.blockDone := rfl
@[simp] theorem State.smoothFeedback_cmd : s.smoothFeedback.cmd = s.cmd := rfl
@[simp] theorem State.smoothFeedback_ctl : s.smoothFeedback.ctl = s.ctl := rfl
@[simp] theorem State.smoothFeedback_sin : s.smoothFeedback.sin = s.sin := rfl
@[simp] theorem State.smoothFeedback_rsp : s.smoothFeedback.rsp = s.rsp := rfl
@[simp] theorem State.smoothFeedback_sout : s.smoothFeedback.sout = s.sout := rfl
@[simp] theorem State.smoothFeedback_turns : s.smoothFeedback.turns = s.turns := rfl
@[simp] theorem State.smoothFeedback_draws : s.smoothFeedback.draws = s.draws := rfl
@[simp] theorem State.smoothFeedback_fmt : s.smoothFeedback.fmt = s.fmt := rfl
@[simp] theorem State.smoothFeedback_fval (w : FWord) : s.smoothFeedback.fval w = s.fval w := rfl

/-! `State.smoothed` -/

@[simp] theorem State.smoothed_params : s.smoothed.params = s.params := rfl
@[simp] theorem State.smoothed_session : s.smoothed.session = s.session := rfl
@[simp] theorem State.smoothed_sampleRate : s.smoothed.sampleRate = s.sampleRate := rfl
@[simp] theorem State.smoothed_feedbackTarget : s.smoothed.feedbackTarget = s.feedbackTarget := rfl
@[simp] theorem State.smoothed_smoothedFeedback :
    s.smoothed.smoothedFeedback = smoothReg s.fmt s.fmt.kFn s.fmt.kFo (s.fval s.feedbackTarget) s.smoothedFeedback := rfl
@[simp] theorem State.smoothed_frequencyTarget : s.smoothed.frequencyTarget = s.frequencyTarget := rfl
@[simp] theorem State.smoothed_smoothedDelaySamples :
    s.smoothed.smoothedDelaySamples = smoothReg s.fmt s.fmt.kDn s.fmt.kDo s.targetDelay s.smoothedDelaySamples := rfl
@[simp] theorem State.smoothed_writePointer : s.smoothed.writePointer = s.writePointer := rfl
@[simp] theorem State.smoothed_rb : s.smoothed.rb = s.rb := rfl
@[simp] theorem State.smoothed_mbxFb : s.smoothed.mbxFb = s.mbxFb := rfl
@[simp] theorem State.smoothed_mbxFq : s.smoothed.mbxFq = s.mbxFq := rfl
@[simp] theorem State.smoothed_fault : s.smoothed.fault = s.fault := rfl
@[simp] theorem State.smoothed_seq : s.smoothed.seq = s.seq := rfl
@[simp] theorem State.smoothed_blockLen : s.smoothed.blockLen = s.blockLen := rfl
@[simp] theorem State.smoothed_blockDone : s.smoothed.blockDone = s.blockDone := rfl
@[simp] theorem State.smoothed_cmd : s.smoothed.cmd = s.cmd := rfl
@[simp] theorem State.smoothed_ctl : s.smoothed.ctl = s.ctl := rfl
@[simp] theorem State.smoothed_sin : s.smoothed.sin = s.sin := rfl
@[simp] theorem State.smoothed_rsp : s.smoothed.rsp = s.rsp := rfl
@[simp] theorem State.smoothed_sout : s.smoothed.sout = s.sout := rfl
@[simp] theorem State.smoothed_turns : s.smoothed.turns = s.turns := rfl
@[simp] theorem State.smoothed_draws : s.smoothed.draws = s.draws := rfl
@[simp] theorem State.smoothed_fmt : s.smoothed.fmt = s.fmt := rfl
@[simp] theorem State.smoothed_fval (w : FWord) : s.smoothed.fval w = s.fval w := rfl

/-! `State.writeback` -/

@[simp] theorem State.writeback_params (y : Sample) : (s.writeback y).params = s.params := rfl
@[simp] theorem State.writeback_session (y : Sample) : (s.writeback y).session = s.session := rfl
@[simp] theorem State.writeback_sampleRate (y : Sample) : (s.writeback y).sampleRate = s.sampleRate := rfl
@[simp] theorem State.writeback_feedbackTarget (y : Sample) : (s.writeback y).feedbackTarget = s.feedbackTarget := rfl
@[simp] theorem State.writeback_smoothedFeedback (y : Sample) :
    (s.writeback y).smoothedFeedback = s.smoothedFeedback := rfl
@[simp] theorem State.writeback_frequencyTarget (y : Sample) :
    (s.writeback y).frequencyTarget = s.frequencyTarget := rfl
@[simp] theorem State.writeback_smoothedDelaySamples (y : Sample) :
    (s.writeback y).smoothedDelaySamples = s.smoothedDelaySamples := rfl
@[simp] theorem State.writeback_writePointer (y : Sample) : (s.writeback y).writePointer = s.writePointer := rfl
@[simp] theorem State.writeback_rb (y : Sample) :
    (s.writeback y).rb = s.rb.rbWrite (s.writePointer.toNat : Int) y := rfl
@[simp] theorem State.writeback_mbxFb (y : Sample) : (s.writeback y).mbxFb = s.mbxFb := rfl
@[simp] theorem State.writeback_mbxFq (y : Sample) : (s.writeback y).mbxFq = s.mbxFq := rfl
@[simp] theorem State.writeback_fault (y : Sample) : (s.writeback y).fault = s.fault := rfl
@[simp] theorem State.writeback_seq (y : Sample) : (s.writeback y).seq = s.seq := rfl
@[simp] theorem State.writeback_blockLen (y : Sample) : (s.writeback y).blockLen = s.blockLen := rfl
@[simp] theorem State.writeback_blockDone (y : Sample) : (s.writeback y).blockDone = s.blockDone := rfl
@[simp] theorem State.writeback_cmd (y : Sample) : (s.writeback y).cmd = s.cmd := rfl
@[simp] theorem State.writeback_ctl (y : Sample) : (s.writeback y).ctl = s.ctl := rfl
@[simp] theorem State.writeback_sin (y : Sample) : (s.writeback y).sin = s.sin := rfl
@[simp] theorem State.writeback_rsp (y : Sample) : (s.writeback y).rsp = s.rsp := rfl
@[simp] theorem State.writeback_sout (y : Sample) : (s.writeback y).sout = s.sout := rfl
@[simp] theorem State.writeback_turns (y : Sample) : (s.writeback y).turns = s.turns := rfl
@[simp] theorem State.writeback_draws (y : Sample) : (s.writeback y).draws = s.draws + 1 := rfl
@[simp] theorem State.writeback_fmt (y : Sample) : (s.writeback y).fmt = s.fmt := rfl
@[simp] theorem State.writeback_fval (y : Sample) (w : FWord) : (s.writeback y).fval w = s.fval w := rfl

/-! `State.advance` -/

@[simp] theorem State.advance_params : s.advance.params = s.params := rfl
@[simp] theorem State.advance_session : s.advance.session = s.session := rfl
@[simp] theorem State.advance_sampleRate : s.advance.sampleRate = s.sampleRate := rfl
@[simp] theorem State.advance_feedbackTarget : s.advance.feedbackTarget = s.feedbackTarget := rfl
@[simp] theorem State.advance_smoothedFeedback : s.advance.smoothedFeedback = s.smoothedFeedback := rfl
@[simp] theorem State.advance_frequencyTarget : s.advance.frequencyTarget = s.frequencyTarget := rfl
@[simp] theorem State.advance_smoothedDelaySamples : s.advance.smoothedDelaySamples = s.smoothedDelaySamples := rfl
@[simp] theorem State.advance_writePointer : s.advance.writePointer = s.writePointer + 1#24 := rfl
@[simp] theorem State.advance_rb : s.advance.rb = s.rb := rfl
@[simp] theorem State.advance_mbxFb : s.advance.mbxFb = s.mbxFb := rfl
@[simp] theorem State.advance_mbxFq : s.advance.mbxFq = s.mbxFq := rfl
@[simp] theorem State.advance_fault : s.advance.fault = s.fault := rfl
@[simp] theorem State.advance_seq : s.advance.seq = s.seq := rfl
@[simp] theorem State.advance_blockLen : s.advance.blockLen = s.blockLen := rfl
@[simp] theorem State.advance_blockDone : s.advance.blockDone = s.blockDone := rfl
@[simp] theorem State.advance_cmd : s.advance.cmd = s.cmd := rfl
@[simp] theorem State.advance_ctl : s.advance.ctl = s.ctl := rfl
@[simp] theorem State.advance_sin : s.advance.sin = s.sin := rfl
@[simp] theorem State.advance_rsp : s.advance.rsp = s.rsp := rfl
@[simp] theorem State.advance_sout : s.advance.sout = s.sout := rfl
@[simp] theorem State.advance_turns : s.advance.turns = s.turns := rfl
@[simp] theorem State.advance_draws : s.advance.draws = s.draws := rfl
@[simp] theorem State.advance_fmt : s.advance.fmt = s.fmt := rfl
@[simp] theorem State.advance_fval (w : FWord) : s.advance.fval w = s.fval w := rfl

/-! `State.transfer` -/

@[simp] theorem State.transfer_params (rest : List Sample) (y : Sample) : (s.transfer rest y).params = s.params := rfl
@[simp] theorem State.transfer_session (rest : List Sample) (y : Sample) :
    (s.transfer rest y).session = s.session := rfl
@[simp] theorem State.transfer_sampleRate (rest : List Sample) (y : Sample) :
    (s.transfer rest y).sampleRate = s.sampleRate := rfl
@[simp] theorem State.transfer_feedbackTarget (rest : List Sample) (y : Sample) :
    (s.transfer rest y).feedbackTarget = s.feedbackTarget := rfl
@[simp] theorem State.transfer_smoothedFeedback (rest : List Sample) (y : Sample) :
    (s.transfer rest y).smoothedFeedback = s.smoothedFeedback := rfl
@[simp] theorem State.transfer_frequencyTarget (rest : List Sample) (y : Sample) :
    (s.transfer rest y).frequencyTarget = s.frequencyTarget := rfl
@[simp] theorem State.transfer_smoothedDelaySamples (rest : List Sample) (y : Sample) :
    (s.transfer rest y).smoothedDelaySamples = s.smoothedDelaySamples := rfl
@[simp] theorem State.transfer_writePointer (rest : List Sample) (y : Sample) :
    (s.transfer rest y).writePointer = s.writePointer := rfl
@[simp] theorem State.transfer_rb (rest : List Sample) (y : Sample) : (s.transfer rest y).rb = s.rb := rfl
@[simp] theorem State.transfer_mbxFb (rest : List Sample) (y : Sample) : (s.transfer rest y).mbxFb = s.mbxFb := rfl
@[simp] theorem State.transfer_mbxFq (rest : List Sample) (y : Sample) : (s.transfer rest y).mbxFq = s.mbxFq := rfl
@[simp] theorem State.transfer_fault (rest : List Sample) (y : Sample) : (s.transfer rest y).fault = s.fault := rfl
@[simp] theorem State.transfer_seq (rest : List Sample) (y : Sample) : (s.transfer rest y).seq = s.seq := rfl
@[simp] theorem State.transfer_blockLen (rest : List Sample) (y : Sample) :
    (s.transfer rest y).blockLen = s.blockLen := rfl
@[simp] theorem State.transfer_blockDone (rest : List Sample) (y : Sample) :
    (s.transfer rest y).blockDone = s.blockDone := rfl
@[simp] theorem State.transfer_cmd (rest : List Sample) (y : Sample) : (s.transfer rest y).cmd = s.cmd := rfl
@[simp] theorem State.transfer_ctl (rest : List Sample) (y : Sample) : (s.transfer rest y).ctl = s.ctl := rfl
@[simp] theorem State.transfer_sin (rest : List Sample) (y : Sample) : (s.transfer rest y).sin = rest := rfl
@[simp] theorem State.transfer_rsp (rest : List Sample) (y : Sample) : (s.transfer rest y).rsp = s.rsp := rfl
@[simp] theorem State.transfer_sout (rest : List Sample) (y : Sample) :
    (s.transfer rest y).sout = s.sout ++ [y] := rfl
@[simp] theorem State.transfer_turns (rest : List Sample) (y : Sample) : (s.transfer rest y).turns = s.turns := rfl
@[simp] theorem State.transfer_draws (rest : List Sample) (y : Sample) : (s.transfer rest y).draws = s.draws := rfl
@[simp] theorem State.transfer_fmt (rest : List Sample) (y : Sample) : (s.transfer rest y).fmt = s.fmt := rfl
@[simp] theorem State.transfer_fval (rest : List Sample) (y : Sample) (w : FWord) : (s.transfer rest y).fval w = s.fval w := rfl

/-! `State.countSample` -/

@[simp] theorem State.countSample_params : s.countSample.params = s.params := rfl
@[simp] theorem State.countSample_session : s.countSample.session = s.session := rfl
@[simp] theorem State.countSample_sampleRate : s.countSample.sampleRate = s.sampleRate := rfl
@[simp] theorem State.countSample_feedbackTarget : s.countSample.feedbackTarget = s.feedbackTarget := rfl
@[simp] theorem State.countSample_smoothedFeedback : s.countSample.smoothedFeedback = s.smoothedFeedback := rfl
@[simp] theorem State.countSample_frequencyTarget : s.countSample.frequencyTarget = s.frequencyTarget := rfl
@[simp] theorem State.countSample_smoothedDelaySamples :
    s.countSample.smoothedDelaySamples = s.smoothedDelaySamples := rfl
@[simp] theorem State.countSample_writePointer : s.countSample.writePointer = s.writePointer := rfl
@[simp] theorem State.countSample_rb : s.countSample.rb = s.rb := rfl
@[simp] theorem State.countSample_mbxFb : s.countSample.mbxFb = s.mbxFb := rfl
@[simp] theorem State.countSample_mbxFq : s.countSample.mbxFq = s.mbxFq := rfl
@[simp] theorem State.countSample_fault : s.countSample.fault = s.fault := rfl
@[simp] theorem State.countSample_seq : s.countSample.seq = loopSeq s.blockLen (s.blockDone + 1#32) := rfl
@[simp] theorem State.countSample_blockLen : s.countSample.blockLen = s.blockLen := rfl
@[simp] theorem State.countSample_blockDone : s.countSample.blockDone = s.blockDone + 1#32 := rfl
@[simp] theorem State.countSample_cmd : s.countSample.cmd = s.cmd := rfl
@[simp] theorem State.countSample_ctl : s.countSample.ctl = s.ctl := rfl
@[simp] theorem State.countSample_sin : s.countSample.sin = s.sin := rfl
@[simp] theorem State.countSample_rsp : s.countSample.rsp = s.rsp := rfl
@[simp] theorem State.countSample_sout : s.countSample.sout = s.sout := rfl
@[simp] theorem State.countSample_turns : s.countSample.turns = s.turns := rfl
@[simp] theorem State.countSample_draws : s.countSample.draws = s.draws := rfl
@[simp] theorem State.countSample_fmt : s.countSample.fmt = s.fmt := rfl
@[simp] theorem State.countSample_fval (w : FWord) : s.countSample.fval w = s.fval w := rfl

/-! `State.beginBlock` -/

@[simp] theorem State.beginBlock_params (len : BitVec 32) : (s.beginBlock len).params = s.params := rfl
@[simp] theorem State.beginBlock_session (len : BitVec 32) : (s.beginBlock len).session = s.session := rfl
@[simp] theorem State.beginBlock_sampleRate (len : BitVec 32) : (s.beginBlock len).sampleRate = s.sampleRate := rfl
@[simp] theorem State.beginBlock_feedbackTarget (len : BitVec 32) :
    (s.beginBlock len).feedbackTarget = s.mbxFb.drainInto s.feedbackTarget := rfl
@[simp] theorem State.beginBlock_smoothedFeedback (len : BitVec 32) :
    (s.beginBlock len).smoothedFeedback = s.smoothedFeedback := rfl
@[simp] theorem State.beginBlock_frequencyTarget (len : BitVec 32) :
    (s.beginBlock len).frequencyTarget = s.mbxFq.drainInto s.frequencyTarget := rfl
@[simp] theorem State.beginBlock_smoothedDelaySamples (len : BitVec 32) :
    (s.beginBlock len).smoothedDelaySamples = s.smoothedDelaySamples := rfl
@[simp] theorem State.beginBlock_writePointer (len : BitVec 32) :
    (s.beginBlock len).writePointer = s.writePointer := rfl
@[simp] theorem State.beginBlock_rb (len : BitVec 32) : (s.beginBlock len).rb = s.rb := rfl
@[simp] theorem State.beginBlock_mbxFb (len : BitVec 32) : (s.beginBlock len).mbxFb = s.mbxFb.cleared := rfl
@[simp] theorem State.beginBlock_mbxFq (len : BitVec 32) : (s.beginBlock len).mbxFq = s.mbxFq.cleared := rfl
@[simp] theorem State.beginBlock_fault (len : BitVec 32) : (s.beginBlock len).fault = s.fault := rfl
@[simp] theorem State.beginBlock_seq (len : BitVec 32) : (s.beginBlock len).seq = loopSeq len 0#32 := rfl
@[simp] theorem State.beginBlock_blockLen (len : BitVec 32) : (s.beginBlock len).blockLen = len := rfl
@[simp] theorem State.beginBlock_blockDone (len : BitVec 32) : (s.beginBlock len).blockDone = 0#32 := rfl
@[simp] theorem State.beginBlock_cmd (len : BitVec 32) : (s.beginBlock len).cmd = s.cmd := rfl
@[simp] theorem State.beginBlock_ctl (len : BitVec 32) : (s.beginBlock len).ctl = s.ctl := rfl
@[simp] theorem State.beginBlock_sin (len : BitVec 32) : (s.beginBlock len).sin = s.sin := rfl
@[simp] theorem State.beginBlock_rsp (len : BitVec 32) : (s.beginBlock len).rsp = s.rsp := rfl
@[simp] theorem State.beginBlock_sout (len : BitVec 32) : (s.beginBlock len).sout = s.sout := rfl
@[simp] theorem State.beginBlock_turns (len : BitVec 32) : (s.beginBlock len).turns = s.turns := rfl
@[simp] theorem State.beginBlock_draws (len : BitVec 32) : (s.beginBlock len).draws = s.draws := rfl
@[simp] theorem State.beginBlock_fmt (len : BitVec 32) : (s.beginBlock len).fmt = s.fmt := rfl
@[simp] theorem State.beginBlock_fval (len : BitVec 32) (w : FWord) : (s.beginBlock len).fval w = s.fval w := rfl

/-! `State.endBlock` -/

@[simp] theorem State.endBlock_params : s.endBlock.params = s.params := rfl
@[simp] theorem State.endBlock_session : s.endBlock.session = s.session := rfl
@[simp] theorem State.endBlock_sampleRate : s.endBlock.sampleRate = s.sampleRate := rfl
@[simp] theorem State.endBlock_feedbackTarget : s.endBlock.feedbackTarget = s.feedbackTarget := rfl
@[simp] theorem State.endBlock_smoothedFeedback : s.endBlock.smoothedFeedback = s.smoothedFeedback := rfl
@[simp] theorem State.endBlock_frequencyTarget : s.endBlock.frequencyTarget = s.frequencyTarget := rfl
@[simp] theorem State.endBlock_smoothedDelaySamples : s.endBlock.smoothedDelaySamples = s.smoothedDelaySamples := rfl
@[simp] theorem State.endBlock_writePointer : s.endBlock.writePointer = s.writePointer := rfl
@[simp] theorem State.endBlock_rb : s.endBlock.rb = s.rb := rfl
@[simp] theorem State.endBlock_mbxFb : s.endBlock.mbxFb = s.mbxFb := rfl
@[simp] theorem State.endBlock_mbxFq : s.endBlock.mbxFq = s.mbxFq := rfl
@[simp] theorem State.endBlock_fault : s.endBlock.fault = s.fault := rfl
@[simp] theorem State.endBlock_seq : s.endBlock.seq = .ready := rfl
@[simp] theorem State.endBlock_blockLen : s.endBlock.blockLen = s.blockLen := rfl
@[simp] theorem State.endBlock_blockDone : s.endBlock.blockDone = s.blockDone := rfl
@[simp] theorem State.endBlock_cmd : s.endBlock.cmd = s.cmd := rfl
@[simp] theorem State.endBlock_ctl : s.endBlock.ctl = s.ctl := rfl
@[simp] theorem State.endBlock_sin : s.endBlock.sin = s.sin := rfl
@[simp] theorem State.endBlock_rsp : s.endBlock.rsp = s.rsp ++ [rspWord codeOk] := rfl
@[simp] theorem State.endBlock_sout : s.endBlock.sout = s.sout := rfl
@[simp] theorem State.endBlock_turns : s.endBlock.turns = s.turns := rfl
@[simp] theorem State.endBlock_draws : s.endBlock.draws = s.draws := rfl
@[simp] theorem State.endBlock_fmt : s.endBlock.fmt = s.fmt := rfl
@[simp] theorem State.endBlock_fval (w : FWord) : s.endBlock.fval w = s.fval w := rfl

/-! `State.startSession` -/

@[simp] theorem State.startSession_params (sr : BitVec 32) : (s.startSession sr).params = s.params := rfl
@[simp] theorem State.startSession_session (sr : BitVec 32) : (s.startSession sr).session = .running := rfl
@[simp] theorem State.startSession_sampleRate (sr : BitVec 32) : (s.startSession sr).sampleRate = sr := rfl
@[simp] theorem State.startSession_feedbackTarget (sr : BitVec 32) :
    (s.startSession sr).feedbackTarget = s.params.resetFeedbackTarget := rfl
@[simp] theorem State.startSession_smoothedFeedback (sr : BitVec 32) :
    (s.startSession sr).smoothedFeedback = s.initialFeedback := rfl
@[simp] theorem State.startSession_frequencyTarget (sr : BitVec 32) :
    (s.startSession sr).frequencyTarget = s.params.resetFrequencyTarget := rfl
@[simp] theorem State.startSession_smoothedDelaySamples (sr : BitVec 32) :
    (s.startSession sr).smoothedDelaySamples = s.initialDelay sr := rfl
@[simp] theorem State.startSession_writePointer (sr : BitVec 32) : (s.startSession sr).writePointer = 0#24 := rfl
@[simp] theorem State.startSession_rb (sr : BitVec 32) : (s.startSession sr).rb = Memory.zeroFilled := rfl
@[simp] theorem State.startSession_mbxFb (sr : BitVec 32) : (s.startSession sr).mbxFb = s.mbxFb := rfl
@[simp] theorem State.startSession_mbxFq (sr : BitVec 32) : (s.startSession sr).mbxFq = s.mbxFq := rfl
@[simp] theorem State.startSession_fault (sr : BitVec 32) : (s.startSession sr).fault = 0#8 := rfl
@[simp] theorem State.startSession_seq (sr : BitVec 32) : (s.startSession sr).seq = s.seq := rfl
@[simp] theorem State.startSession_blockLen (sr : BitVec 32) : (s.startSession sr).blockLen = s.blockLen := rfl
@[simp] theorem State.startSession_blockDone (sr : BitVec 32) : (s.startSession sr).blockDone = s.blockDone := rfl
@[simp] theorem State.startSession_cmd (sr : BitVec 32) : (s.startSession sr).cmd = s.cmd := rfl
@[simp] theorem State.startSession_ctl (sr : BitVec 32) : (s.startSession sr).ctl = s.ctl := rfl
@[simp] theorem State.startSession_sin (sr : BitVec 32) : (s.startSession sr).sin = s.sin := rfl
@[simp] theorem State.startSession_rsp (sr : BitVec 32) : (s.startSession sr).rsp = s.rsp := rfl
@[simp] theorem State.startSession_sout (sr : BitVec 32) : (s.startSession sr).sout = s.sout := rfl
@[simp] theorem State.startSession_turns (sr : BitVec 32) : (s.startSession sr).turns = s.turns := rfl
@[simp] theorem State.startSession_draws (sr : BitVec 32) : (s.startSession sr).draws = s.draws + 1 := rfl
@[simp] theorem State.startSession_fmt (sr : BitVec 32) : (s.startSession sr).fmt = s.fmt := rfl
@[simp] theorem State.startSession_fval (sr : BitVec 32) (w : FWord) : (s.startSession sr).fval w = s.fval w := rfl

/-! `State.fillFb` -/

@[simp] theorem State.fillFb_params (arg : Arg) : (s.fillFb arg).params = s.params := rfl
@[simp] theorem State.fillFb_session (arg : Arg) : (s.fillFb arg).session = s.session := rfl
@[simp] theorem State.fillFb_sampleRate (arg : Arg) : (s.fillFb arg).sampleRate = s.sampleRate := rfl
@[simp] theorem State.fillFb_feedbackTarget (arg : Arg) : (s.fillFb arg).feedbackTarget = s.feedbackTarget := rfl
@[simp] theorem State.fillFb_smoothedFeedback (arg : Arg) :
    (s.fillFb arg).smoothedFeedback = s.smoothedFeedback := rfl
@[simp] theorem State.fillFb_frequencyTarget (arg : Arg) : (s.fillFb arg).frequencyTarget = s.frequencyTarget := rfl
@[simp] theorem State.fillFb_smoothedDelaySamples (arg : Arg) :
    (s.fillFb arg).smoothedDelaySamples = s.smoothedDelaySamples := rfl
@[simp] theorem State.fillFb_writePointer (arg : Arg) : (s.fillFb arg).writePointer = s.writePointer := rfl
@[simp] theorem State.fillFb_rb (arg : Arg) : (s.fillFb arg).rb = s.rb := rfl
@[simp] theorem State.fillFb_mbxFb (arg : Arg) : (s.fillFb arg).mbxFb = messageSlot (s.floatOperand arg) := rfl
@[simp] theorem State.fillFb_mbxFq (arg : Arg) : (s.fillFb arg).mbxFq = s.mbxFq := rfl
@[simp] theorem State.fillFb_fault (arg : Arg) : (s.fillFb arg).fault = s.fault := rfl
@[simp] theorem State.fillFb_seq (arg : Arg) : (s.fillFb arg).seq = s.seq := rfl
@[simp] theorem State.fillFb_blockLen (arg : Arg) : (s.fillFb arg).blockLen = s.blockLen := rfl
@[simp] theorem State.fillFb_blockDone (arg : Arg) : (s.fillFb arg).blockDone = s.blockDone := rfl
@[simp] theorem State.fillFb_cmd (arg : Arg) : (s.fillFb arg).cmd = s.cmd := rfl
@[simp] theorem State.fillFb_ctl (arg : Arg) : (s.fillFb arg).ctl = s.ctl := rfl
@[simp] theorem State.fillFb_sin (arg : Arg) : (s.fillFb arg).sin = s.sin := rfl
@[simp] theorem State.fillFb_rsp (arg : Arg) : (s.fillFb arg).rsp = s.rsp := rfl
@[simp] theorem State.fillFb_sout (arg : Arg) : (s.fillFb arg).sout = s.sout := rfl
@[simp] theorem State.fillFb_turns (arg : Arg) : (s.fillFb arg).turns = s.turns := rfl
@[simp] theorem State.fillFb_draws (arg : Arg) : (s.fillFb arg).draws = s.draws + 1 := rfl
@[simp] theorem State.fillFb_fmt (arg : Arg) : (s.fillFb arg).fmt = s.fmt := rfl
@[simp] theorem State.fillFb_fval (arg : Arg) (w : FWord) : (s.fillFb arg).fval w = s.fval w := rfl

/-! `State.fillFq` -/

@[simp] theorem State.fillFq_params (arg : Arg) : (s.fillFq arg).params = s.params := rfl
@[simp] theorem State.fillFq_session (arg : Arg) : (s.fillFq arg).session = s.session := rfl
@[simp] theorem State.fillFq_sampleRate (arg : Arg) : (s.fillFq arg).sampleRate = s.sampleRate := rfl
@[simp] theorem State.fillFq_feedbackTarget (arg : Arg) : (s.fillFq arg).feedbackTarget = s.feedbackTarget := rfl
@[simp] theorem State.fillFq_smoothedFeedback (arg : Arg) :
    (s.fillFq arg).smoothedFeedback = s.smoothedFeedback := rfl
@[simp] theorem State.fillFq_frequencyTarget (arg : Arg) : (s.fillFq arg).frequencyTarget = s.frequencyTarget := rfl
@[simp] theorem State.fillFq_smoothedDelaySamples (arg : Arg) :
    (s.fillFq arg).smoothedDelaySamples = s.smoothedDelaySamples := rfl
@[simp] theorem State.fillFq_writePointer (arg : Arg) : (s.fillFq arg).writePointer = s.writePointer := rfl
@[simp] theorem State.fillFq_rb (arg : Arg) : (s.fillFq arg).rb = s.rb := rfl
@[simp] theorem State.fillFq_mbxFb (arg : Arg) : (s.fillFq arg).mbxFb = s.mbxFb := rfl
@[simp] theorem State.fillFq_mbxFq (arg : Arg) : (s.fillFq arg).mbxFq = messageSlot (s.floatOperand arg) := rfl
@[simp] theorem State.fillFq_fault (arg : Arg) : (s.fillFq arg).fault = s.fault := rfl
@[simp] theorem State.fillFq_seq (arg : Arg) : (s.fillFq arg).seq = s.seq := rfl
@[simp] theorem State.fillFq_blockLen (arg : Arg) : (s.fillFq arg).blockLen = s.blockLen := rfl
@[simp] theorem State.fillFq_blockDone (arg : Arg) : (s.fillFq arg).blockDone = s.blockDone := rfl
@[simp] theorem State.fillFq_cmd (arg : Arg) : (s.fillFq arg).cmd = s.cmd := rfl
@[simp] theorem State.fillFq_ctl (arg : Arg) : (s.fillFq arg).ctl = s.ctl := rfl
@[simp] theorem State.fillFq_sin (arg : Arg) : (s.fillFq arg).sin = s.sin := rfl
@[simp] theorem State.fillFq_rsp (arg : Arg) : (s.fillFq arg).rsp = s.rsp := rfl
@[simp] theorem State.fillFq_sout (arg : Arg) : (s.fillFq arg).sout = s.sout := rfl
@[simp] theorem State.fillFq_turns (arg : Arg) : (s.fillFq arg).turns = s.turns := rfl
@[simp] theorem State.fillFq_draws (arg : Arg) : (s.fillFq arg).draws = s.draws + 1 := rfl
@[simp] theorem State.fillFq_fmt (arg : Arg) : (s.fillFq arg).fmt = s.fmt := rfl
@[simp] theorem State.fillFq_fval (arg : Arg) (w : FWord) : (s.fillFq arg).fval w = s.fval w := rfl

/-! `State.endSession` -/

@[simp] theorem State.endSession_params : s.endSession.params = s.params := rfl
@[simp] theorem State.endSession_session : s.endSession.session = .idle := rfl
@[simp] theorem State.endSession_sampleRate : s.endSession.sampleRate = (s.drawn 0).setWidth 32 := rfl
@[simp] theorem State.endSession_feedbackTarget : s.endSession.feedbackTarget = s.fmt.trim (s.drawn 1) := rfl
@[simp] theorem State.endSession_smoothedFeedback : s.endSession.smoothedFeedback = s.fmt.trim (s.drawn 2) := rfl
@[simp] theorem State.endSession_frequencyTarget : s.endSession.frequencyTarget = s.fmt.trim (s.drawn 3) := rfl
@[simp] theorem State.endSession_smoothedDelaySamples :
    s.endSession.smoothedDelaySamples = s.fmt.trim (s.drawn 4) := rfl
@[simp] theorem State.endSession_writePointer : s.endSession.writePointer = (s.drawn 5).setWidth 24 := rfl
@[simp] theorem State.endSession_rb : s.endSession.rb = ⟨.free s.draws, []⟩ := rfl
@[simp] theorem State.endSession_mbxFb : s.endSession.mbxFb = s.mbxFb := rfl
@[simp] theorem State.endSession_mbxFq : s.endSession.mbxFq = s.mbxFq := rfl
@[simp] theorem State.endSession_fault : s.endSession.fault = s.fault := rfl
@[simp] theorem State.endSession_seq : s.endSession.seq = s.seq := rfl
@[simp] theorem State.endSession_blockLen : s.endSession.blockLen = s.blockLen := rfl
@[simp] theorem State.endSession_blockDone : s.endSession.blockDone = s.blockDone := rfl
@[simp] theorem State.endSession_cmd : s.endSession.cmd = s.cmd := rfl
@[simp] theorem State.endSession_ctl : s.endSession.ctl = s.ctl := rfl
@[simp] theorem State.endSession_sin : s.endSession.sin = s.sin := rfl
@[simp] theorem State.endSession_rsp : s.endSession.rsp = s.rsp := rfl
@[simp] theorem State.endSession_sout : s.endSession.sout = s.sout := rfl
@[simp] theorem State.endSession_turns : s.endSession.turns = s.turns := rfl
@[simp] theorem State.endSession_draws : s.endSession.draws = s.draws + 6 := rfl
@[simp] theorem State.endSession_fmt : s.endSession.fmt = s.fmt := rfl
@[simp] theorem State.endSession_fval (w : FWord) : s.endSession.fval w = s.fval w := rfl

/-! `State.resumeDrain` -/

@[simp] theorem State.resumeDrain_params : s.resumeDrain.params = s.params := rfl
@[simp] theorem State.resumeDrain_session : s.resumeDrain.session = s.session := rfl
@[simp] theorem State.resumeDrain_sampleRate : s.resumeDrain.sampleRate = s.sampleRate := rfl
@[simp] theorem State.resumeDrain_feedbackTarget :
    s.resumeDrain.feedbackTarget = s.mbxFb.drainInto s.feedbackTarget := rfl
@[simp] theorem State.resumeDrain_smoothedFeedback : s.resumeDrain.smoothedFeedback = s.smoothedFeedback := rfl
@[simp] theorem State.resumeDrain_frequencyTarget :
    s.resumeDrain.frequencyTarget = s.mbxFq.drainInto s.frequencyTarget := rfl
@[simp] theorem State.resumeDrain_smoothedDelaySamples :
    s.resumeDrain.smoothedDelaySamples = s.smoothedDelaySamples := rfl
@[simp] theorem State.resumeDrain_writePointer : s.resumeDrain.writePointer = s.writePointer := rfl
@[simp] theorem State.resumeDrain_rb : s.resumeDrain.rb = s.rb := rfl
@[simp] theorem State.resumeDrain_mbxFb : s.resumeDrain.mbxFb = s.mbxFb.cleared := rfl
@[simp] theorem State.resumeDrain_mbxFq : s.resumeDrain.mbxFq = s.mbxFq.cleared := rfl
@[simp] theorem State.resumeDrain_fault : s.resumeDrain.fault = s.fault := rfl
@[simp] theorem State.resumeDrain_seq : s.resumeDrain.seq = loopSeq s.blockLen s.blockDone := rfl
@[simp] theorem State.resumeDrain_blockLen : s.resumeDrain.blockLen = s.blockLen := rfl
@[simp] theorem State.resumeDrain_blockDone : s.resumeDrain.blockDone = s.blockDone := rfl
@[simp] theorem State.resumeDrain_cmd : s.resumeDrain.cmd = s.cmd := rfl
@[simp] theorem State.resumeDrain_ctl : s.resumeDrain.ctl = s.ctl := rfl
@[simp] theorem State.resumeDrain_sin : s.resumeDrain.sin = s.sin := rfl
@[simp] theorem State.resumeDrain_rsp : s.resumeDrain.rsp = s.rsp := rfl
@[simp] theorem State.resumeDrain_sout : s.resumeDrain.sout = s.sout := rfl
@[simp] theorem State.resumeDrain_turns : s.resumeDrain.turns = s.turns := rfl
@[simp] theorem State.resumeDrain_draws : s.resumeDrain.draws = s.draws := rfl
@[simp] theorem State.resumeDrain_fmt : s.resumeDrain.fmt = s.fmt := rfl
@[simp] theorem State.resumeDrain_fval (w : FWord) : s.resumeDrain.fval w = s.fval w := rfl

/-! `State.takeCtl` -/

@[simp] theorem State.takeCtl_params (rest : List CmdWord) : (s.takeCtl rest).params = s.params := rfl
@[simp] theorem State.takeCtl_session (rest : List CmdWord) : (s.takeCtl rest).session = s.session := rfl
@[simp] theorem State.takeCtl_sampleRate (rest : List CmdWord) : (s.takeCtl rest).sampleRate = s.sampleRate := rfl
@[simp] theorem State.takeCtl_feedbackTarget (rest : List CmdWord) :
    (s.takeCtl rest).feedbackTarget = s.feedbackTarget := rfl
@[simp] theorem State.takeCtl_smoothedFeedback (rest : List CmdWord) :
    (s.takeCtl rest).smoothedFeedback = s.smoothedFeedback := rfl
@[simp] theorem State.takeCtl_frequencyTarget (rest : List CmdWord) :
    (s.takeCtl rest).frequencyTarget = s.frequencyTarget := rfl
@[simp] theorem State.takeCtl_smoothedDelaySamples (rest : List CmdWord) :
    (s.takeCtl rest).smoothedDelaySamples = s.smoothedDelaySamples := rfl
@[simp] theorem State.takeCtl_writePointer (rest : List CmdWord) :
    (s.takeCtl rest).writePointer = s.writePointer := rfl
@[simp] theorem State.takeCtl_rb (rest : List CmdWord) : (s.takeCtl rest).rb = s.rb := rfl
@[simp] theorem State.takeCtl_mbxFb (rest : List CmdWord) : (s.takeCtl rest).mbxFb = s.mbxFb := rfl
@[simp] theorem State.takeCtl_mbxFq (rest : List CmdWord) : (s.takeCtl rest).mbxFq = s.mbxFq := rfl
@[simp] theorem State.takeCtl_fault (rest : List CmdWord) : (s.takeCtl rest).fault = s.fault := rfl
@[simp] theorem State.takeCtl_seq (rest : List CmdWord) : (s.takeCtl rest).seq = s.seq := rfl
@[simp] theorem State.takeCtl_blockLen (rest : List CmdWord) : (s.takeCtl rest).blockLen = s.blockLen := rfl
@[simp] theorem State.takeCtl_blockDone (rest : List CmdWord) : (s.takeCtl rest).blockDone = s.blockDone := rfl
@[simp] theorem State.takeCtl_cmd (rest : List CmdWord) : (s.takeCtl rest).cmd = s.cmd := rfl
@[simp] theorem State.takeCtl_ctl (rest : List CmdWord) : (s.takeCtl rest).ctl = rest := rfl
@[simp] theorem State.takeCtl_sin (rest : List CmdWord) : (s.takeCtl rest).sin = s.sin := rfl
@[simp] theorem State.takeCtl_rsp (rest : List CmdWord) : (s.takeCtl rest).rsp = s.rsp := rfl
@[simp] theorem State.takeCtl_sout (rest : List CmdWord) : (s.takeCtl rest).sout = s.sout := rfl
@[simp] theorem State.takeCtl_turns (rest : List CmdWord) : (s.takeCtl rest).turns = s.turns := rfl
@[simp] theorem State.takeCtl_draws (rest : List CmdWord) : (s.takeCtl rest).draws = s.draws := rfl
@[simp] theorem State.takeCtl_fmt (rest : List CmdWord) : (s.takeCtl rest).fmt = s.fmt := rfl
@[simp] theorem State.takeCtl_fval (rest : List CmdWord) (w : FWord) : (s.takeCtl rest).fval w = s.fval w := rfl

/-! `State.takeCmd` -/

@[simp] theorem State.takeCmd_params (rest : List CmdWord) : (s.takeCmd rest).params = s.params := rfl
@[simp] theorem State.takeCmd_session (rest : List CmdWord) : (s.takeCmd rest).session = s.session := rfl
@[simp] theorem State.takeCmd_sampleRate (rest : List CmdWord) : (s.takeCmd rest).sampleRate = s.sampleRate := rfl
@[simp] theorem State.takeCmd_feedbackTarget (rest : List CmdWord) :
    (s.takeCmd rest).feedbackTarget = s.feedbackTarget := rfl
@[simp] theorem State.takeCmd_smoothedFeedback (rest : List CmdWord) :
    (s.takeCmd rest).smoothedFeedback = s.smoothedFeedback := rfl
@[simp] theorem State.takeCmd_frequencyTarget (rest : List CmdWord) :
    (s.takeCmd rest).frequencyTarget = s.frequencyTarget := rfl
@[simp] theorem State.takeCmd_smoothedDelaySamples (rest : List CmdWord) :
    (s.takeCmd rest).smoothedDelaySamples = s.smoothedDelaySamples := rfl
@[simp] theorem State.takeCmd_writePointer (rest : List CmdWord) :
    (s.takeCmd rest).writePointer = s.writePointer := rfl
@[simp] theorem State.takeCmd_rb (rest : List CmdWord) : (s.takeCmd rest).rb = s.rb := rfl
@[simp] theorem State.takeCmd_mbxFb (rest : List CmdWord) : (s.takeCmd rest).mbxFb = s.mbxFb := rfl
@[simp] theorem State.takeCmd_mbxFq (rest : List CmdWord) : (s.takeCmd rest).mbxFq = s.mbxFq := rfl
@[simp] theorem State.takeCmd_fault (rest : List CmdWord) : (s.takeCmd rest).fault = s.fault := rfl
@[simp] theorem State.takeCmd_seq (rest : List CmdWord) : (s.takeCmd rest).seq = s.seq := rfl
@[simp] theorem State.takeCmd_blockLen (rest : List CmdWord) : (s.takeCmd rest).blockLen = s.blockLen := rfl
@[simp] theorem State.takeCmd_blockDone (rest : List CmdWord) : (s.takeCmd rest).blockDone = s.blockDone := rfl
@[simp] theorem State.takeCmd_cmd (rest : List CmdWord) : (s.takeCmd rest).cmd = rest := rfl
@[simp] theorem State.takeCmd_ctl (rest : List CmdWord) : (s.takeCmd rest).ctl = s.ctl := rfl
@[simp] theorem State.takeCmd_sin (rest : List CmdWord) : (s.takeCmd rest).sin = s.sin := rfl
@[simp] theorem State.takeCmd_rsp (rest : List CmdWord) : (s.takeCmd rest).rsp = s.rsp := rfl
@[simp] theorem State.takeCmd_sout (rest : List CmdWord) : (s.takeCmd rest).sout = s.sout := rfl
@[simp] theorem State.takeCmd_turns (rest : List CmdWord) : (s.takeCmd rest).turns = s.turns := rfl
@[simp] theorem State.takeCmd_draws (rest : List CmdWord) : (s.takeCmd rest).draws = s.draws := rfl
@[simp] theorem State.takeCmd_fmt (rest : List CmdWord) : (s.takeCmd rest).fmt = s.fmt := rfl
@[simp] theorem State.takeCmd_fval (rest : List CmdWord) (w : FWord) : (s.takeCmd rest).fval w = s.fval w := rfl

/-! `State.passTurn` -/

@[simp] theorem State.passTurn_params : s.passTurn.params = s.params := rfl
@[simp] theorem State.passTurn_session : s.passTurn.session = s.session := rfl
@[simp] theorem State.passTurn_sampleRate : s.passTurn.sampleRate = s.sampleRate := rfl
@[simp] theorem State.passTurn_feedbackTarget : s.passTurn.feedbackTarget = s.feedbackTarget := rfl
@[simp] theorem State.passTurn_smoothedFeedback : s.passTurn.smoothedFeedback = s.smoothedFeedback := rfl
@[simp] theorem State.passTurn_frequencyTarget : s.passTurn.frequencyTarget = s.frequencyTarget := rfl
@[simp] theorem State.passTurn_smoothedDelaySamples : s.passTurn.smoothedDelaySamples = s.smoothedDelaySamples := rfl
@[simp] theorem State.passTurn_writePointer : s.passTurn.writePointer = s.writePointer := rfl
@[simp] theorem State.passTurn_rb : s.passTurn.rb = s.rb := rfl
@[simp] theorem State.passTurn_mbxFb : s.passTurn.mbxFb = s.mbxFb := rfl
@[simp] theorem State.passTurn_mbxFq : s.passTurn.mbxFq = s.mbxFq := rfl
@[simp] theorem State.passTurn_fault : s.passTurn.fault = s.fault := rfl
@[simp] theorem State.passTurn_seq : s.passTurn.seq = s.seq := rfl
@[simp] theorem State.passTurn_blockLen : s.passTurn.blockLen = s.blockLen := rfl
@[simp] theorem State.passTurn_blockDone : s.passTurn.blockDone = s.blockDone := rfl
@[simp] theorem State.passTurn_cmd : s.passTurn.cmd = s.cmd := rfl
@[simp] theorem State.passTurn_ctl : s.passTurn.ctl = s.ctl := rfl
@[simp] theorem State.passTurn_sin : s.passTurn.sin = s.sin := rfl
@[simp] theorem State.passTurn_rsp : s.passTurn.rsp = s.rsp := rfl
@[simp] theorem State.passTurn_sout : s.passTurn.sout = s.sout := rfl
@[simp] theorem State.passTurn_turns : s.passTurn.turns = s.turns.tail := rfl
@[simp] theorem State.passTurn_draws : s.passTurn.draws = s.draws := rfl
@[simp] theorem State.passTurn_fmt : s.passTurn.fmt = s.fmt := rfl
@[simp] theorem State.passTurn_fval (w : FWord) : s.passTurn.fval w = s.fval w := rfl

/-! Response words -/

@[simp] theorem rspWord_ok : rspWord codeOk = 0x00000000#32 := rfl
@[simp] theorem rspWord_illegalCmd : rspWord FaultCode.illegalCmd.response = 0x00000081#32 := rfl
@[simp] theorem rspWord_illegalState : rspWord FaultCode.illegalState.response = 0x00000082#32 := rfl
@[simp] theorem rspWord_initFail : rspWord FaultCode.initFail.response = 0x00000083#32 := rfl

end Sys2Proof.Machine
end

