-- ==== Sys2Proof/Laws/Ops.lean ====
section
/-! SUPPORT. Everything a command, a sample step and a step of the machine can do, each said once: one relation per operation, and the
theorem that the operation answers nothing else. -/

namespace Sys2Proof.Machine

@[simp] theorem port_fbk (a : Arg) : (Instr.fbk a).port = .ctl := rfl
@[simp] theorem port_frq (a : Arg) : (Instr.frq a).port = .ctl := rfl
@[simp] theorem port_init (n : BitVec 32) : (Instr.init n).port = .cmd := rfl
@[simp] theorem port_proc (n : BitVec 32) : (Instr.proc n).port = .cmd := rfl
@[simp] theorem port_teardown : Instr.teardown.port = .cmd := rfl

/-- A block that accepts a CMD word is READY. -/
theorem ready_of_acceptsCmd {s : State} (h : s.acceptsCmd = true) : s.seq = .ready := by
  simp only [State.acceptsCmd, Bool.and_eq_true, beq_iff_eq] at h
  exact h.2

/-- A block that accepts a CMD word is not terminated. -/
theorem live_of_acceptsCmd {s : State} (h : s.acceptsCmd = true) : s.session ≠ .terminated := by
  simp only [State.acceptsCmd, Bool.and_eq_true, bne_iff_ne] at h
  exact h.1

/-- The session state a CMD command needs (R21). -/
def requiredSession : Instr → Session
  | .init _ => .idle
  | _ => .running

/-- What a command can do to a state. -/
inductive ExecEffect : Instr → State → State → Prop
  | ctlNotAccepted {i s} (hi : i.port = .ctl) (h : s.acceptsCtl = false) : ExecEffect i s s
  | cmdNotAccepted {i s} (hi : i.port = .cmd) (h : s.acceptsCmd = false) : ExecEffect i s s
  | feedback {arg s} (h : s.acceptsCtl = true) :
      ExecEffect (.fbk arg) s (s.fillFb arg)
  | frequency {arg s} (h : s.acceptsCtl = true) :
      ExecEffect (.frq arg) s (s.fillFq arg)
  | wrongState {i s} (hi : i.port = .cmd) (h : s.acceptsCmd = true)
      (hs : s.session ≠ requiredSession i) :
      ExecEffect i s (s.faultCmd .illegalState)
  | initFails {sr s} (h : s.acceptsCmd = true) (hs : s.session = .idle) (hr : s.rateOk sr = false) :
      ExecEffect (.init sr) s (s.faultCmd .initFail)
  | initStarts {sr s} (h : s.acceptsCmd = true) (hs : s.session = .idle) (hr : s.rateOk sr = true) :
      ExecEffect (.init sr) s ((s.startSession sr).respond codeOk)
  | blockBegins {len s} (h : s.acceptsCmd = true) (hs : s.session = .running) :
      ExecEffect (.proc len) s (s.beginBlock len)
  | sessionEnds {s} (h : s.acceptsCmd = true) (hs : s.session = .running) :
      ExecEffect .teardown s (s.endSession.respond codeOk)

/-- Every command answers a next state. -/
theorem exec_total (i : Instr) (s : State) : ∃ t, exec i s = .next t := by
  cases i <;> simp only [exec, execFbk, execFrq, execInit, execProc, execTeardown] <;> (repeat' split) <;> exact ⟨_, rfl⟩

/-- A command does one of the things `ExecEffect` lists. -/
theorem exec_effect {i : Instr} {s t : State} (h : exec i s = .next t) : ExecEffect i s t := by
  cases i with
  | fbk arg =>
    simp only [exec, execFbk] at h
    split at h <;> cases h
    · exact .feedback (by assumption)
    · exact .ctlNotAccepted rfl (Bool.eq_false_of_not_eq_true (by assumption))
  | frq arg =>
    simp only [exec, execFrq] at h
    split at h <;> cases h
    · exact .frequency (by assumption)
    · exact .ctlNotAccepted rfl (Bool.eq_false_of_not_eq_true (by assumption))
  | init sr =>
    simp only [exec, execInit] at h
    split at h
    · rename_i ha
      split at h
      · cases h; exact .wrongState rfl ha (by assumption)
      · rename_i hs
        split at h <;> cases h
        · exact .initStarts ha (not_not.1 hs) (by assumption)
        · exact .initFails ha (not_not.1 hs) (Bool.eq_false_of_not_eq_true (by assumption))
    · cases h; exact .cmdNotAccepted rfl (Bool.eq_false_of_not_eq_true (by assumption))
  | proc len =>
    simp only [exec, execProc] at h
    split at h
    · rename_i ha
      split at h <;> cases h
      · exact .wrongState rfl ha (by assumption)
      · exact .blockBegins ha (not_not.1 ‹_›)
    · cases h; exact .cmdNotAccepted rfl (Bool.eq_false_of_not_eq_true (by assumption))
  | teardown =>
    simp only [exec, execTeardown] at h
    split at h
    · rename_i ha
      split at h <;> cases h
      · exact .wrongState rfl ha (by assumption)
      · exact .sessionEnds ha (not_not.1 ‹_›)
    · cases h; exact .cmdNotAccepted rfl (Bool.eq_false_of_not_eq_true (by assumption))

/-- The loop's test after one more sample, in numbers: below L the count does not wrap (R100). -/
theorem loopSeq_succ {len done : BitVec 32} (h : done < len) :
    loopSeq len (done + 1#32) = if done.toNat + 1 < len.toNat then .sample else .respond := by
  have hlt : done.toNat < len.toNat := h
  have hadd : (done + 1#32).toNat = done.toNat + 1 := by
    have := len.isLt
    simp only [BitVec.toNat_add, BitVec.toNat_ofNat]
    omega
  simp only [loopSeq, BitVec.lt_def, hadd]

/-- What a sample step that goes on does: it holds, or it takes a word and delivers one. -/
theorem sampleStep_cases {s t : State} (h : s.sampleStep = .next t) :
    (s.sin = [] ∧ t = s) ∨
    ∃ x rest y, s.sin = x :: rest ∧ s.smoothed.sampleWord x = some y ∧
      t = ((s.smoothed.writeback y).advance.transfer rest y).countSample := by
  unfold State.sampleStep at h
  split at h
  · cases h; exact .inl ⟨by assumption, rfl⟩
  · split at h
    · cases h
    · cases h; exact .inr ⟨_, _, _, by assumption, by assumption, rfl⟩

/-- What the step of each turn can do to a state whose turn has been passed. -/
inductive StepEffect : Turn → State → State → Prop
  | held {u s} (hu : u = .engine ∨ u = .control) : StepEffect u s s
  | reset {s} : StepEffect .reset s s.powerOn
  | shutdown {s} : StepEffect .shutdown s s.shutdown
  | ctlCommand {s w rest i t} (hq : s.ctl = w :: rest) (ha : s.acceptsCtl = true) (hd : decode .ctl w = .instr i)
      (hp : i.port = .ctl) (he : ExecEffect i (s.takeCtl rest) t) : StepEffect .control s t
  | ctlIllegal {s w rest why} (hq : s.ctl = w :: rest) (ha : s.acceptsCtl = true) (hd : decode .ctl w = .illegal why) :
      StepEffect .control s ((s.takeCtl rest).raise .illegalCmd)
  | cmdCommand {s w rest i t} (hq : s.cmd = w :: rest) (ha : s.acceptsCmd = true) (hd : decode .cmd w = .instr i)
      (hp : i.port = .cmd) (he : ExecEffect i (s.takeCmd rest) t) : StepEffect .engine s t
  | cmdIllegal {s w rest why} (hq : s.cmd = w :: rest) (ha : s.acceptsCmd = true) (hd : decode .cmd w = .illegal why) :
      StepEffect .engine s ((s.takeCmd rest).faultCmd .illegalCmd)
  | drained {s} (hs : s.session ≠ .terminated) (hq : s.seq = .drain) :
      StepEffect .engine s s.resumeDrain
  | sampled {s x rest y} (hs : s.session ≠ .terminated) (hq : s.seq = .sample) (hk : s.blockDone < s.blockLen)
      (hx : s.sin = x :: rest) (hy : s.smoothed.sampleWord x = some y) :
      StepEffect .engine s ((s.smoothed.writeback y).advance.transfer rest y).countSample
  | finished {s} (hs : s.session ≠ .terminated)
      (hq : s.seq = .respond ∨ (s.seq = .sample ∧ ¬ s.blockDone < s.blockLen)) : StepEffect .engine s s.endBlock

/-- A decoded command is legal on the port it came from. -/
theorem decode_port {p : Port} {w : CmdWord} {i : Instr} (h : decode p w = .instr i) : i.port = p := by
  unfold decode decodeFloatForm decodeIntForm decodeNoArgForm at h
  simp only at h
  repeat' split at h
  all_goals first
    | (cases h; simp_all [Instr.port])
    | cases h

/-- An accepted CTL word's step. -/
theorem controlStep_effect {s t : State} (h : s.controlStep = .next t) : StepEffect .control s t := by
  unfold State.controlStep at h
  split at h
  · cases h; exact .held (.inr rfl)
  · rename_i hq
    split at h
    · rename_i ha
      unfold State.runWord at h
      split at h
      · rename_i hd
        exact .ctlCommand hq ha hd (decode_port hd) (exec_effect h)
      · cases h; exact .ctlIllegal hq ha (by assumption)
    · cases h; exact .held (.inr rfl)

/-- The Engine's step with SEQ = READY. -/
theorem acceptStep_effect {s t : State} (h : s.acceptStep = .next t) : StepEffect .engine s t := by
  unfold State.acceptStep at h
  split at h
  · cases h; exact .held (.inl rfl)
  · rename_i hq
    split at h
    · rename_i ha
      unfold State.runWord at h
      split at h
      · rename_i hd
        exact .cmdCommand hq ha hd (decode_port hd) (exec_effect h)
      · cases h; exact .cmdIllegal hq ha (by assumption)
    · cases h; exact .held (.inl rfl)

/-- The Engine's step. -/
theorem engineStep_effect {s t : State} (h : s.engineStep = .next t) : StepEffect .engine s t := by
  unfold State.engineStep at h
  split at h
  · cases h; exact .held (.inl rfl)
  · rename_i hs
    split at h
    · exact acceptStep_effect h
    · cases h
    · cases h; exact .drained hs (by assumption)
    · rename_i hq
      split at h
      · rename_i hk
        rcases sampleStep_cases h with ⟨-, rfl⟩ | ⟨x, rest, y, hx, hy, rfl⟩
        · exact .held (.inl rfl)
        · exact .sampled hs hq hk hx hy
      · rename_i hk
        cases h; exact .finished hs (.inr ⟨hq, hk⟩)
    · cases h; exact .finished hs (.inl (by assumption))

/-- A step does one of the things `StepEffect` lists. -/
theorem step_effect {s t : State} (h : step s = .next t) : StepEffect s.turn s.passTurn t := by
  unfold step State.takeTurn at h
  generalize s.turn = u at h
  split at h
  · exact engineStep_effect h
  · exact controlStep_effect h
  · cases h; exact .shutdown
  · cases h; exact .reset

end Sys2Proof.Machine
end

