-- ==== Sys2Proof/Laws/PerInstr.lean ====
section
/-! SUPPORT. A fact of every command, one lemma per constructor: its encoding lies in its row of spec/opcode_table.json. -/

namespace Sys2Proof.Laws.EncodesInRow

/-- The word of a command has its row's match under its row's mask. -/
def Statement (i : Instr) : Prop := encode i &&& i.rowMask = i.rowMatch

/-- A mask of the OP byte alone keeps the OP byte alone. -/
theorem opMask (op : OpCode) (a : Arg) : (op ++ a : CmdWord) &&& 0xFF0000000000000000#72 = op ++ 0#64 := by
  ext k hk
  simp only [BitVec.getElem_and, BitVec.getElem_append]
  split <;> interval_cases k <;> simp_all

/-- A mask of the OP byte and ARG[63:32] clears a zero-extended integer. -/
theorem integerMask (op : OpCode) (n : BitVec 32) :
    (op ++ n.setWidth 64 : CmdWord) &&& 0xFFFFFFFFFF00000000#72 = op ++ 0#64 := by
  ext k hk
  simp only [BitVec.getElem_and, BitVec.getElem_append]
  split <;> interval_cases k <;> simp_all

theorem fbk (arg : Arg) : Statement (.fbk arg) := opMask 0x01#8 arg

theorem frq (arg : Arg) : Statement (.frq arg) := opMask 0x02#8 arg

theorem init (sr : BitVec 32) : Statement (.init sr) := integerMask 0x10#8 sr

theorem proc (len : BitVec 32) : Statement (.proc len) := integerMask 0x11#8 len

theorem teardown : Statement .teardown := by unfold Statement; decide

end Sys2Proof.Laws.EncodesInRow
end

