-- ==== Sys2Proof/Laws/Range.lean ====
section
/-! SUPPORT. Bounds on the arithmetic of the delay: a product or a quotient of values in range, one one-pole update of the delay, the target
delay and the initial delay (R115). -/

namespace Sys2Proof

theorem Fmt.Representable.mul_pow {f : Fmt} {m : Nat} (h : f.Representable m) (n : Nat) : f.Representable (m * 2 ^ n) := by
  obtain ⟨k, e, hk, rfl⟩ := h
  exact ⟨k, e + n, hk, by rw [Nat.pow_add, Nat.mul_assoc]⟩

theorem maxDelay_eq : maxDelay = 2 ^ 23 := by decide

theorem Fmt.Representable.mul_maxDelay {f : Fmt} {m : Nat} (h : f.Representable m) : f.Representable (m * maxDelay) :=
  maxDelay_eq ▸ h.mul_pow 23

theorem Fmt.representable_one (f : Fmt) : f.Representable f.one := f.representable_two_pow _

theorem Fmt.representable_delayBound (f : Fmt) : f.Representable (maxDelay * f.one) :=
  Nat.mul_comm _ _ ▸ f.representable_one.mul_maxDelay

theorem Fmt.delayBound_le_maxMag (f : Fmt) : maxDelay * f.one ≤ f.maxMag := by
  apply Nat.le_of_ble_eq_true
  cases f <;> decide +kernel

theorem Fmt.rateBound_le_maxMag (f : Fmt) : 2 ^ 32 * f.one ≤ f.maxMag := by
  apply Nat.le_of_ble_eq_true
  cases f <;> decide +kernel

theorem Fmt.unpack_zero (f : Fmt) : f.unpack 0#64 = .fin false 0 := by cases f <;> decide +kernel

/-- A rounding that stays below a representable finite bound is a finite value below it. -/
theorem Fmt.round_le (f : Fmt) (s : Bool) {m num den : Nat} (hd : 0 < den) (hm : f.Representable m) (hmax : m ≤ f.maxMag)
    (h : num ≤ m * den) : ∃ r, f.round s num den = .fin s r ∧ r ≤ m := by
  have hr := f.roundMag_le hd hm h
  exact ⟨_, by unfold Fmt.round; rw [if_pos (le_trans hr hmax)], hr⟩

/-- The delay's constants: positive, and their products with 2^23 are values whose sum rounds to no more than 2^23. -/
theorem Fmt.kDelay_spec (f : Fmt) : ∃ kn ko, f.kDn = .fin false kn ∧ f.kDo = .fin false ko ∧
    kn * maxDelay ≤ f.maxMag ∧ ko * maxDelay ≤ f.maxMag ∧
    f.roundMag (kn * maxDelay + ko * maxDelay) 1 ≤ maxDelay * f.one := by
  cases f
  · refine ⟨13743895 * 2 ^ 112, 16775538 * 2 ^ 125, ?_, ?_, Nat.le_of_ble_eq_true ?_, Nat.le_of_ble_eq_true ?_,
      Nat.le_of_ble_eq_true ?_⟩ <;> decide +kernel
  · refine ⟨7378697629483821 * 2 ^ 1008, 9006298534815518 * 2 ^ 1021, ?_, ?_, Nat.le_of_ble_eq_true ?_, Nat.le_of_ble_eq_true ?_,
      Nat.le_of_ble_eq_true ?_⟩ <;> decide +kernel

theorem Fmt.isValue_kDn (f : Fmt) : f.IsValue f.kDn := by
  unfold Fmt.kDn
  split <;> exact Fmt.isValue_unpack _ _

theorem Fmt.isValue_kDo (f : Fmt) : f.IsValue f.kDo := by
  unfold Fmt.kDo
  split <;> exact Fmt.isValue_unpack _ _

/-- One update of the delay toward a target in range stays in range (R104, R115). -/
theorem Fmt.onePole_delay (f : Fmt) {a b : Nat} (ha : a ≤ maxDelay * f.one) (hb : b ≤ maxDelay * f.one) :
    ∃ c, Machine.onePole f f.kDn f.kDo (.fin false a) (.fin false b) = .fin false c ∧ c ≤ maxDelay * f.one := by
  obtain ⟨kn, ko, hn, ho, hnm, hom, hsum⟩ := f.kDelay_spec
  have hrn : f.Representable kn := (hn ▸ f.isValue_kDn : f.IsValue (.fin false kn)).1
  have hro : f.Representable ko := (ho ▸ f.isValue_kDo : f.IsValue (.fin false ko)).1
  obtain ⟨p, hp, hple⟩ := f.round_le false f.one_pos hrn.mul_maxDelay hnm
    (num := kn * a) (by calc kn * a ≤ kn * (maxDelay * f.one) := Nat.mul_le_mul_left _ ha
                          _ = kn * maxDelay * f.one := (Nat.mul_assoc _ _ _).symm)
  obtain ⟨q, hq, hqle⟩ := f.round_le false f.one_pos hro.mul_maxDelay hom
    (num := ko * b) (by calc ko * b ≤ ko * (maxDelay * f.one) := Nat.mul_le_mul_left _ hb
                          _ = ko * maxDelay * f.one := (Nat.mul_assoc _ _ _).symm)
  have hround : f.roundMag (p + q) 1 ≤ maxDelay * f.one :=
    le_trans (f.roundMag_mono Nat.one_pos (Nat.add_le_add hple hqle)) hsum
  refine ⟨f.roundMag (p + q) 1, ?_, hround⟩
  unfold Machine.onePole
  rw [hn, ho]
  simp only [Fmt.mul, bne_self_eq_false, hp, hq, Fmt.add, if_true]
  unfold Fmt.round
  rw [if_pos (le_trans hround f.delayBound_le_maxMag)]

/-- FREQ_FLOOR of an allowed instance: a positive finite value that bounds SR_MAX (R5). -/
theorem Params.floor_spec {p : Params} (h : p.valid = true) :
    ∃ m, p.floorVal = .fin false m ∧ 0 < m ∧ p.srMax.toNat * p.arithFmt.one ≤ maxDelay * m := by
  unfold Params.valid Params.floorValid at h
  simp only [Bool.and_eq_true] at h
  obtain ⟨⟨h, -⟩, -⟩ := h
  split at h
  · rename_i m hm
    simp only [Bool.and_eq_true, decide_eq_true_eq] at h
    exact ⟨m, hm, h.1, h.2⟩
  · exact absurd h (by decide)

/-- A finite value not below a positive one is positive and not smaller. -/
theorem FVal.le_of_not_lt {x : FVal} {m : Nat} (hm : 0 < m) (hf : x.isFinite = true)
    (h : x.lt (.fin false m) = false) : ∃ n, x = .fin false n ∧ m ≤ n := by
  cases x with
  | nan => exact absurd hf (by decide)
  | inf s => exact absurd hf (by simp [FVal.isFinite])
  | fin s n =>
    simp only [FVal.lt, decide_eq_false_iff_not, not_lt] at h
    cases s
    · exact ⟨n, rfl, by simpa [signedMag] using h⟩
    · simp only [signedMag, if_true, Bool.false_eq_true, if_false] at h; omega

/-- The rate over a frequency not below FREQ_FLOOR is a delay in range (R103, R115). -/
theorem Fmt.div_rate (f : Fmt) {rate n : Nat} (hn : 0 < n) (hv : f.Representable n)
    (h : rate * f.one ≤ maxDelay * n) (hrate : rate < 2 ^ 32) :
    ∃ c, f.div (f.ofInt (rate : Int)) (.fin false n) = .fin false c ∧ c ≤ maxDelay * f.one := by
  have hbig := f.rateBound_le_maxMag
  have hb32 : f.Representable (2 ^ 32 * f.one) := by
    unfold Fmt.one
    rw [← Nat.pow_add]
    exact f.representable_two_pow _
  obtain ⟨r, hr, -⟩ := f.round_le false Nat.one_pos hb32 hbig (num := rate * f.one)
    (by rw [Nat.mul_one]; exact Nat.mul_le_mul_right _ hrate.le)
  have hrle : r ≤ n * maxDelay := by
    have h1 := f.roundMag_le Nat.one_pos hv.mul_maxDelay (num := rate * f.one) (by rw [Nat.mul_one, Nat.mul_comm n]; exact h)
    have h2 : r = f.roundMag (rate * f.one) 1 := by
      unfold Fmt.round at hr
      split at hr
      · exact (FVal.fin.inj hr).2.symm
      · exact absurd hr (by simp)
    rwa [h2]
  have hof : f.ofInt (rate : Int) = .fin false r := by
    unfold Fmt.ofInt
    rw [Int.natAbs_natCast, ← hr]
    congr 1
  rw [hof]
  obtain ⟨c, hc, hcle⟩ := f.round_le false hn f.representable_delayBound f.delayBound_le_maxMag (num := r * f.one)
    (by calc r * f.one ≤ n * maxDelay * f.one := Nat.mul_le_mul_right _ hrle
          _ = maxDelay * f.one * n := by ring)
  refine ⟨c, ?_, hcle⟩
  simp only [Fmt.div, if_neg hn.ne', bne_self_eq_false, hc]

namespace Machine

/-- A finite target delay is in range (R103, R115). -/
theorem State.targetDelay_range {s : State} (hv : s.params.valid = true) (hr : s.sampleRate ≤ s.params.srMax)
    (hf : s.targetDelay.isFinite = true) : ∃ a, s.targetDelay = .fin false a ∧ a ≤ maxDelay * s.fmt.one := by
  obtain ⟨m, hm, hm0, hsr⟩ := Params.floor_spec hv
  have hrate : s.sampleRate.toNat * s.fmt.one ≤ maxDelay * m :=
    le_trans (Nat.mul_le_mul_right _ (BitVec.le_def.1 hr)) hsr
  have hmv : s.fmt.IsValue (.fin false m) := hm ▸ s.fmt.isValue_unpack s.params.freqFloor
  unfold State.targetDelay State.effectiveFrequency at hf ⊢
  simp only at hf ⊢
  split at hf
  · rename_i hlt
    rw [if_pos hlt, hm]
    exact s.fmt.div_rate hm0 hmv.1 hrate s.sampleRate.isLt
  · rename_i hge
    rw [if_neg hge]
    have hge' : (s.fval s.frequencyTarget).lt (.fin false m) = false := by rw [← hm]; simpa using hge
    cases hx : s.fval s.frequencyTarget with
    | nan => rw [hx] at hf; exact absurd hf (by unfold Fmt.div; split <;> simp_all [FVal.isFinite])
    | inf t =>
      have ht : t = false := by rw [hx] at hge'; simpa [FVal.lt] using hge'
      subst ht
      have hbig := s.fmt.rateBound_le_maxMag
      have hb32 : s.fmt.Representable (2 ^ 32 * s.fmt.one) := by
        unfold Fmt.one
        rw [← Nat.pow_add]
        exact s.fmt.representable_two_pow _
      obtain ⟨r, hr', -⟩ := s.fmt.round_le false Nat.one_pos hb32 hbig (num := s.sampleRate.toNat * s.fmt.one)
        (by rw [Nat.mul_one]; exact Nat.mul_le_mul_right _ s.sampleRate.isLt.le)
      have hof : s.fmt.ofInt (s.sampleRate.toNat : Int) = .fin false r := by
        unfold Fmt.ofInt
        rw [Int.natAbs_natCast, ← hr']
        congr 1
      rw [hof]
      exact ⟨0, by simp [Fmt.div], Nat.zero_le _⟩
    | fin t n =>
      have hfin : (s.fval s.frequencyTarget).isFinite = true := by rw [hx]; rfl
      obtain ⟨k, hk, hmk⟩ := FVal.le_of_not_lt hm0 hfin hge'
      rw [hx] at hk
      cases hk
      have hv' : s.fmt.IsValue (.fin false n) := hx ▸ s.fmt.isValue_unpack s.frequencyTarget
      exact s.fmt.div_rate (by omega) hv'.1 (le_trans hrate (Nat.mul_le_mul_left _ hmk)) s.sampleRate.isLt

/-- Storing a value of the format and reading it back gives it. -/
theorem State.fval_pack (s : State) (raw : BitVec 64) {x : FVal} (hx : s.fmt.IsValue x) (hf : x.isFinite = true) :
    s.fval (s.fmt.pack raw x) = x := by
  cases x with
  | nan => exact absurd hf (by decide)
  | inf t => exact absurd hf (by simp [FVal.isFinite])
  | fin t m => exact s.fmt.unpack_pack_fin raw hx

/-- An update of a smoothed register: the value stored, or the register held (R104, R105). -/
theorem smoothReg_cases (s : State) (kn ko td : FVal) (reg : FWord) :
    (td.isFinite = true ∧ (onePole s.fmt kn ko td (s.fval reg)).isFinite = true ∧
      s.fval (smoothReg s.fmt kn ko td reg) = onePole s.fmt kn ko td (s.fval reg)) ∨
    smoothReg s.fmt kn ko td reg = reg := by
  unfold smoothReg
  simp only
  split
  · rename_i h
    simp only [Bool.and_eq_true] at h
    exact .inl ⟨h.1, h.2, s.fval_pack 0 (s.fmt.isValue_add _ _) h.2⟩
  · exact .inr rfl

/-- A smoothed delay stays in range (R115). -/
theorem State.smoothed_delayInRange {s : State} (hv : s.params.valid = true) (hr : s.sampleRate ≤ s.params.srMax)
    (hd : s.DelayInRange) : s.smoothed.DelayInRange := by
  obtain ⟨b, hb, hble⟩ := hd
  unfold State.DelayInRange
  simp only [State.smoothed_smoothedDelaySamples, State.smoothed_fval, State.smoothed_fmt]
  rcases smoothReg_cases s s.fmt.kDn s.fmt.kDo s.targetDelay s.smoothedDelaySamples with ⟨hf, -, hval⟩ | hheld
  · obtain ⟨a, ha, hale⟩ := State.targetDelay_range hv hr hf
    obtain ⟨c, hc, hcle⟩ := s.fmt.onePole_delay hale hble
    exact ⟨c, by rw [hval, ha, hb, hc], hcle⟩
  · exact ⟨b, by rw [hheld, hb], hble⟩

/-- A smoothed feedback stays finite (R24). -/
theorem State.smoothed_feedbackFinite {s : State} (h : (s.fval s.smoothedFeedback).isFinite = true) :
    (s.fval s.smoothed.smoothedFeedback).isFinite = true := by
  simp only [State.smoothed_smoothedFeedback]
  rcases smoothReg_cases s s.fmt.kFn s.fmt.kFo (s.fval s.feedbackTarget) s.smoothedFeedback with ⟨-, hf, hval⟩ | hheld
  · rw [hval]; exact hf
  · rw [hheld]; exact h

/-- A session starts with its delay in range (R34, R115). -/
theorem State.initialDelay_range {s : State} {sr : BitVec 32} (hv : s.params.valid = true) (hr : sr ≤ s.params.srMax) :
    ∃ c, s.fval (s.initialDelay sr) = .fin false c ∧ c ≤ maxDelay * s.fmt.one := by
  obtain ⟨m, hm, hm0, hsr⟩ := Params.floor_spec hv
  unfold State.initialDelay
  cases s.params.smoothInit with
  | zero => exact ⟨0, s.fmt.unpack_zero, Nat.zero_le _⟩
  | settled =>
    have hq : s.params.frequencyOk s.params.resetFrequencyTarget = true := by
      unfold Params.valid at hv
      simp only [Bool.and_eq_true] at hv
      exact hv.2
    unfold Params.frequencyOk at hq
    simp only [Bool.and_eq_true, Bool.not_eq_true', hm] at hq
    obtain ⟨n, hn, hmn⟩ := FVal.le_of_not_lt hm0 hq.1 hq.2
    have hv' : s.fmt.IsValue (.fin false n) := hn ▸ s.fmt.isValue_unpack s.params.resetFrequencyTarget
    have hrate : sr.toNat * s.fmt.one ≤ maxDelay * n :=
      le_trans (le_trans (Nat.mul_le_mul_right _ (BitVec.le_def.1 hr)) hsr) (Nat.mul_le_mul_left _ hmn)
    obtain ⟨c, hc, hcle⟩ := s.fmt.div_rate (by omega) hv'.1 hrate sr.isLt
    have hdiv : s.fmt.div (s.intOperand sr) (s.fval s.params.resetFrequencyTarget) = .fin false c := by
      unfold State.intOperand
      rw [show s.fval s.params.resetFrequencyTarget = .fin false n from hn, hc]
    refine ⟨c, ?_, hcle⟩
    simp only
    rw [hdiv]
    exact s.fval_pack _ (hdiv ▸ s.fmt.isValue_div _ _) rfl

/-- A session starts with its feedback finite (R34, R24). -/
theorem State.initialFeedback_finite {s : State} (hv : s.params.valid = true) :
    (s.fval s.initialFeedback).isFinite = true := by
  unfold State.initialFeedback
  cases s.params.smoothInit with
  | zero => exact congrArg FVal.isFinite s.fmt.unpack_zero
  | settled =>
    unfold Params.valid at hv
    simp only [Bool.and_eq_true] at hv
    exact hv.1.2

end Machine

end Sys2Proof
end

