-- ==== Sys2Proof/Tests/Slice0.lean ====
section
/-! SUPPORT. The model's own tests. Expected values are the spec's: R83's words and the vectors of 95_test_vectors.md, by section. After
them, a witness for the hypotheses of each statement of Certificates/Slice0/Obligations.lean. -/

namespace Sys2Proof.Tests

open Sys2Proof Sys2Proof.Machine

-- One theorem at a time: many kernel evaluations at once start more threads than the memory limit allows.
set_option Elab.async false

/-! Helper states -/

/-- The premises of programs P1 and P3: reset targets 0.9 and 240.0, SETTLED, binary64. -/
def params64 : Params :=
  { Params.base with resetFeedbackTarget := 0x3FECCCCCCCCCCCCD#64, resetFrequencyTarget := 0x406E000000000000#64 }

/-- The same instance in binary32. -/
def params32 : Params where
  arithFmt := .binary32
  freqFloor := 0x3F800000#64
  srMax := 8388608#32
  resetFeedbackTarget := 0x3F666666#64
  resetFrequencyTarget := 0x43700000#64
  smoothInit := .settled

/-- Right after reset, with those premises. -/
def idle : State := { State.reset with params := params64 }

/-- A session at 960 Hz: delay 4.0, feedback 0.9 (P1 after INIT). -/
def running : State :=
  { idle with
    session := .running, sampleRate := 960#32, rb := Memory.zeroFilled
    feedbackTarget := 0x3FECCCCCCCCCCCCD#64, smoothedFeedback := 0x3FECCCCCCCCCCCCD#64
    frequencyTarget := 0x406E000000000000#64, smoothedDelaySamples := 0x4010000000000000#64 }

/-- A block of one sample, its SIN word 1.0 on offer. -/
def inBlock : State := { running with seq := .sample, blockLen := 1#32, blockDone := 0#32, sin := [0x3F800000#32] }

/-- A terminated session. -/
def terminated : State := { running with session := .terminated, fault := 0x04#8 }

/-- A ring buffer of INIT's zeros and these words. -/
def ring (cells : List (Nat × Sample)) : Memory := ⟨.zero, cells⟩

/-- The state a result goes on to, or the state given. -/
def after (d : State) : Result → State
  | .next t => t
  | _ => d

/-- The result is a next state. -/
def goesOn : Result → Bool
  | .next _ => true
  | _ => false

theorem exists_of_goesOn {r : Result} (h : goesOn r = true) : ∃ t, r = .next t := by
  cases r with
  | next t => exact ⟨t, rfl⟩
  | fault _ => simp [goesOn] at h
  | refused _ => simp [goesOn] at h

/-! Well-formedness (R76): a command is well formed on its own port and refused on the other. -/

theorem test_wellFormed_fbk : (Instr.fbk 0#64).wellFormedOn .ctl = true ∧ (Instr.fbk 0#64).wellFormedOn .cmd = false := by
  decide
theorem test_wellFormed_frq : (Instr.frq 0#64).wellFormedOn .ctl = true ∧ (Instr.frq 0#64).wellFormedOn .cmd = false := by
  decide
theorem test_wellFormed_init : (Instr.init 1#32).wellFormedOn .cmd = true ∧ (Instr.init 1#32).wellFormedOn .ctl = false := by
  decide
theorem test_wellFormed_proc : (Instr.proc 1#32).wellFormedOn .cmd = true ∧ (Instr.proc 1#32).wellFormedOn .ctl = false := by
  decide
theorem test_wellFormed_teardown : Instr.teardown.wellFormedOn .cmd = true ∧ Instr.teardown.wellFormedOn .ctl = false := by
  decide

/-! Decoding (L2.9, R83) -/

theorem test_decode_fbk : decode .ctl 0x013FECCCCCCCCCCCCD#72 = .instr (.fbk 0x3FECCCCCCCCCCCCD#64) := by decide
theorem test_decode_frq_all_ones : decode .ctl 0x02FFFFFFFFFFFFFFFF#72 = .instr (.frq 0xFFFFFFFFFFFFFFFF#64) := by decide
theorem test_decode_init : decode .cmd 0x10000000000000BB80#72 = .instr (.init 48000#32) := by decide
theorem test_decode_proc : decode .cmd 0x1100000000FFFFFFFF#72 = .instr (.proc 4294967295#32) := by decide
theorem test_decode_teardown : decode .cmd 0x120000000000000000#72 = .instr .teardown := by decide
theorem test_decode_init_high_bit : decode .cmd 0x1000000001000000BB#72 = .illegal .nonzeroMbz := by decide
theorem test_decode_teardown_arg : decode .cmd 0x120000000000000001#72 = .illegal .nonzeroMbz := by decide
theorem test_decode_fbk_on_cmd : decode .cmd 0x013FECCCCCCCCCCCCD#72 = .illegal .wrongPort := by decide
theorem test_decode_init_on_ctl : decode .ctl 0x10000000000000BB80#72 = .illegal .wrongPort := by decide
theorem test_decode_reserved : decode .cmd 0x130000000000000000#72 = .illegal .reservedOp ∧
    decode .ctl 0x000000000000000000#72 = .illegal .reservedOp := by decide
theorem test_encode_words :
    encode (.fbk 0x3FECCCCCCCCCCCCD#64) = 0x013FECCCCCCCCCCCCD#72 ∧ encode (.frq 0x406E000000000000#64) = 0x02406E000000000000#72 ∧
    encode (.init 48000#32) = 0x10000000000000BB80#72 ∧ encode (.proc 64#32) = 0x110000000000000040#72 ∧
    encode .teardown = 0x120000000000000000#72 := by decide
theorem test_decodeTableWord :
    decodeTableWord 72 0x013FECCCCCCCCCCCCD = some (.fbk 0x3FECCCCCCCCCCCCD#64) ∧
    decodeTableWord 72 0x110000000000000040 = some (.proc 64#32) ∧ decodeTableWord 72 0x130000000000000000 = none := by decide

/-! The commands (L2.6, L2.7, L2.8) -/

theorem test_fbk_last_wins :
    (after idle (exec (.fbk 0x3FE6666666666666#64) (after idle (exec (.fbk 0x3FE999999999999A#64) running)))).mbxFb =
      ⟨true, 0x3FE6666666666666#64⟩ := by decide
theorem test_fbk_in_idle_status : (after running (exec (.fbk 0x3FE3333333333333#64) idle)).status = 0x00000008#32 := by decide
theorem test_frq_nan_stored :
    (after idle (exec (.frq 0x7FF8000000000000#64) running)).mbxFq = ⟨true, 0x7FF8000000000000#64⟩ ∧
    (after idle (exec (.frq 0x7FF8000000000000#64) running)).status = 0x00000011#32 := by decide
theorem test_init_settled :
    (after running (exec (.init 48000#32) idle)).smoothedDelaySamples = 0x4069000000000000#64 ∧
    (after running (exec (.init 48000#32) idle)).smoothedFeedback = 0x3FECCCCCCCCCCCCD#64 ∧
    (after running (exec (.init 48000#32) idle)).rsp = [0#32] := by decide +kernel
theorem test_init_bounds :
    (after running (exec (.init 8388608#32) idle)).session = .running ∧
    (after running (exec (.init 8388609#32) idle)).fault = 0x03#8 ∧
    (after running (exec (.init 0#32) idle)).rsp = [0x83#32] := by decide +kernel
theorem test_proc_in_idle :
    (after running (exec (.proc 4#32) idle)).rsp = [0x82#32] ∧ (after running (exec (.proc 4#32) idle)).fault = 0x02#8 := by
  decide
theorem test_proc_zero_drains :
    (after idle (exec (.proc 0#32) { running with mbxFq := ⟨true, 0x4079000000000000#64⟩ })).frequencyTarget =
      0x4079000000000000#64 ∧
    (after idle (exec (.proc 0#32) running)).seq = .respond := by decide
theorem test_teardown_twice :
    (after idle (exec .teardown running)).rsp = [0#32] ∧
    (after running (exec .teardown (after running (exec .teardown running)))).rsp = [0#32, 0x82#32] := by decide
theorem test_illegal_cmd_word :
    (after idle (step { running with cmd := [0x110000000100000001#72] })).rsp = [0x81#32] ∧
    (after idle (step { running with cmd := [0x110000000100000001#72] })).status = 0x00000101#32 := by decide
theorem test_illegal_ctl_word :
    (after idle (step { running with ctl := [0x110000000000000001#72] })).status = 0x00000101#32 ∧
    (after idle (step { running with ctl := [0x110000000000000001#72] })).rsp = [] := by decide
theorem test_shutdown_status :
    (after idle (step { running with turns := [.shutdown] })).status = 0x00000402#32 ∧
    (after idle (step { running with fault := 0x01#8, turns := [.shutdown] })).status = 0x00000102#32 := by decide
theorem test_reset_leaves_terminated : (after running (step { terminated with turns := [.reset] })).status = 0#32 := by decide
theorem test_withFetchWord_runs :
    step (State.reset.withFetchWord 72 0x110000000000000000) = exec (.proc 0#32) State.reset := by rfl

/-! Arithmetic, the ring buffer and the sample step (L1, L2.1 to L2.5) -/

/-- RB.EVALUATE at a binary64 position, as a binary64 pattern. -/
def evaluate64 (m : Memory) (pos : FWord) : Option FWord :=
  (m.rbEvaluate .binary64 (Fmt.unpack .binary64 pos)).map (Fmt.pack .binary64 0)

theorem test_evaluate_readback :
    evaluate64 (ring [(5, 0x3F800000#32), (6, 0x40400000#32)]) 0x4014000000000000#64 = some 0x3FF0000000000000#64 := by
  decide +kernel
theorem test_evaluate_minus_zero :
    evaluate64 (ring [(5, 0x80000000#32), (6, 0x3F800000#32)]) 0x4014000000000000#64 = some 0x0000000000000000#64 := by
  decide +kernel
theorem test_evaluate_infinite_neighbour :
    (ring [(5, 0x3F800000#32), (6, 0x7F800000#32)]).rbEvaluate .binary64 (Fmt.ofInt .binary64 5) = some .nan := by
  decide +kernel
theorem test_evaluate_across_wrap :
    evaluate64 (ring [(0, 0x40800000#32), (16777215, 0x40000000#32)]) 0xBFE0000000000000#64 = some 0x4008000000000000#64 := by
  decide +kernel
theorem test_rbWrite_keeps_nan_bits : (ring []).rbWrite 7 0x7FC00001#32 = ring [(7, 0x7FC00001#32)] := by decide
theorem test_targetDelay :
    Fmt.pack .binary64 0 ({ running with sampleRate := 48000#32, frequencyTarget := 0x4060400000000000#64 } : State).targetDelay =
      0x407713B13B13B13B#64 ∧
    Fmt.pack .binary64 0 ({ running with sampleRate := 48000#32, frequencyTarget := 0xFFF0000000000000#64 } : State).targetDelay =
      0x40E7700000000000#64 := by decide +kernel
theorem test_smoothDelay_second_update :
    (({ running with smoothedDelaySamples := 0x3F947AE147AE147B#64 } : State).smoothDelay
      (Fmt.unpack .binary64 0x4069000000000000#64)).smoothedDelaySamples = 0x3FA47A9E2BCF91A4#64 := by decide +kernel
theorem test_smoothDelay_stalls_short_of_target :
    (({ running with smoothedDelaySamples := 0x4068FFFFFFFFFD8F#64 } : State).smoothDelay
      (Fmt.unpack .binary64 0x4069000000000000#64)).smoothedDelaySamples = 0x4068FFFFFFFFFD8F#64 := by decide +kernel
theorem test_smoothFeedback_no_clamp :
    ({ running with feedbackTarget := 0x4000000000000000#64 } : State).smoothFeedback.smoothedFeedback = 0x3FECD5CFAACD9E84#64 := by
  decide +kernel
theorem test_smoothFeedback_binary32 :
    ({ running with params := params32, feedbackTarget := 0x3F666666#64, smoothedFeedback := 0#64 } : State).smoothFeedback.smoothedFeedback =
      0x3A6BEDFB#64 := by decide +kernel
theorem test_readPosition :
    Fmt.pack .binary64 0 ({ running with smoothedDelaySamples := 0x3F947AE147AE147B#64 } : State).readPosition =
      0x416FFFFFFF5C28F6#64 ∧
    Fmt.pack .binary64 0 ({ running with smoothedDelaySamples := 0x01A56E1FC2F8F359#64 } : State).readPosition =
      0x4170000000000000#64 := by decide +kernel

/-- L2.4: sample t = 199 of L1.6. -/
def sample199 : State :=
  { inBlock with
    sampleRate := 48000#32, smoothedDelaySamples := 0x4069000000000000#64, writePointer := 199#24
    rb := ring [(0, 0x3F800000#32)], sin := [0#32] }

theorem test_sampleStep_field_by_field :
    (after idle sample199.sampleStep).sout = [0x3EE66666#32] ∧
    (after idle sample199.sampleStep).rb = ring [(0, 0x3F800000#32), (199, 0x3EE66666#32)] ∧
    (after idle sample199.sampleStep).writePointer = 200#24 ∧
    (after idle sample199.sampleStep).smoothedDelaySamples = 0x4069000000000000#64 := by decide +kernel

/-- L2.5: the wrap at writePointer = N − 1. -/
def sampleAtWrap : State :=
  { inBlock with
    sampleRate := 1#32, frequencyTarget := 0x4000000000000000#64, feedbackTarget := 0x3FF0000000000000#64
    smoothedDelaySamples := 0x3FE0000000000000#64, smoothedFeedback := 0x3FF0000000000000#64, writePointer := 16777215#24
    rb := ring [(0, 0x41000000#32), (16777214, 0x40000000#32), (16777215, 0x40800000#32)], sin := [0#32] }

theorem test_sampleStep_wraps :
    (after idle sampleAtWrap.sampleStep).sout = [0x40900000#32] ∧
    (after idle sampleAtWrap.sampleStep).writePointer = 0#24 := by decide +kernel

/-! Notation (R83, R84) -/

theorem test_parse_bits :
    parseLine ['f', 'r', 'q', ' ', 'b', 'i', 't', 's', ':', '0', 'x', '4', '0', '6', 'E', '0', '0', '0', '0', '0', '0', '0', '0', '0',
      '0', '0', '0'] = .line (.command (.frq 0x406E000000000000#64)) := by decide +kernel
theorem test_parse_run_and_comment :
    parseLine ['R', 'U', 'N', ' ', '[', '0', '.', '2', '5', ',', ' ', '-', '1', 'e', '0', ']', ';', 'x'] =
      .line (.run [0x3FD0000000000000#64, 0xBFF0000000000000#64]) ∧
    parseLine [';', 'x'] = .blank ∧ parseLine ['N', 'O', 'P'] = .malformed := by decide +kernel

/-! Witnesses for the hypotheses of the statements, by the statement's name -/

/-- `running` with one word on offer on CMD, and on CTL. -/
def offeringCmd (w : CmdWord) : State := { running with cmd := [w] }
def offeringCtl (w : CmdWord) : State := { running with ctl := [w] }

theorem running_delayInRange : running.DelayInRange :=
  ⟨4 * Fmt.one .binary64, by decide +kernel, Nat.le_of_ble_eq_true (by decide +kernel)⟩

theorem inBlock_delayInRange : inBlock.DelayInRange :=
  ⟨4 * Fmt.one .binary64, by decide +kernel, Nat.le_of_ble_eq_true (by decide +kernel)⟩

theorem idle_inv : idle.Inv where
  paramsValid := by decide +kernel
  ringWf := State.reset_rb_wf
  faultCode := by decide
  seqBetween := by decide
  blockInSession := by decide
  loopOpen := by decide
  loopClosed := by decide
  shutdownRecorded := by decide
  rateInRange := by decide
  ringFilled := by decide
  feedbackFinite := by decide
  delayInRange := fun h => absurd h (by decide)

theorem running_inv : running.Inv where
  paramsValid := by decide +kernel
  ringWf := Memory.zeroFilled_wf
  faultCode := by decide
  seqBetween := by decide
  blockInSession := by decide
  loopOpen := by decide
  loopClosed := by decide
  shutdownRecorded := by decide
  rateInRange := by decide
  ringFilled := by decide
  feedbackFinite := by decide +kernel
  delayInRange := fun _ => running_delayInRange

theorem inBlock_inv : inBlock.Inv where
  paramsValid := by decide +kernel
  ringWf := Memory.zeroFilled_wf
  faultCode := by decide
  seqBetween := by decide
  blockInSession := by decide
  loopOpen := by decide
  loopClosed := by decide
  shutdownRecorded := by decide
  rateInRange := by decide
  ringFilled := by decide
  feedbackFinite := by decide +kernel
  delayInRange := fun _ => inBlock_delayInRange

theorem running_history : running.History [] := fun _ _ _ => rfl

theorem test_witness_stepRunsAcceptedCmdWord :
    let s := offeringCmd 0x110000000000000040#72
    s.turn = .engine ∧ s.seq = .ready ∧ s.session ≠ .terminated ∧ s.cmd = 0x110000000000000040#72 :: [] ∧
      decode .cmd 0x110000000000000040#72 = .instr (.proc 64#32) := by decide
theorem test_witness_stepRunsAcceptedCtlWord :
    let s := { offeringCtl 0x02406E000000000000#72 with seq := .sample }
    s.turn = .control ∧ s.session ≠ .terminated ∧ s.ctl = 0x02406E000000000000#72 :: [] ∧
      decode .ctl 0x02406E000000000000#72 = .instr (.frq 0x406E000000000000#64) := by decide
theorem test_witness_illegalWordsOnlyRecord :
    (let s := offeringCmd 0x120000000000000001#72
     s.turn = .engine ∧ s.seq = .ready ∧ s.session ≠ .terminated ∧ s.cmd = 0x120000000000000001#72 :: [] ∧
       decode .cmd 0x120000000000000001#72 = .illegal .nonzeroMbz) ∧
    (let s := offeringCtl 0x030000000000000000#72
     s.turn = .control ∧ s.session ≠ .terminated ∧ s.ctl = 0x030000000000000000#72 :: [] ∧
       decode .ctl 0x030000000000000000#72 = .illegal .reservedOp) ∧
    (terminated.session = .terminated ∧ terminated.turn = .engine) := by decide
theorem test_witness_commandsNotAccepted :
    terminated.session = .terminated ∧ (Instr.port .teardown = .cmd ∧ inBlock.seq ≠ .ready) := by decide
theorem test_witness_fbk_frq_fill_in_any_session :
    idle.session ≠ .terminated ∧ running.session ≠ .terminated ∧ inBlock.session ≠ .terminated := by decide

/-- L1.1's words and a double rounding case: halfway between two binary32 values, to the even one. -/
theorem test_witness_floatOperandRounds :
    running.fmt = .binary64 ∧ ({ running with params := params32 } : State).fmt = .binary32 ∧
    ({ running with params := params32 } : State).floatOperand 0x3FECCCCCCCCCCCCD#64 = 0x3F666666#64 ∧
    ({ running with params := params32 } : State).floatOperand 0x3FF0000010000000#64 = 0x3F800000#64 := by decide +kernel
theorem test_witness_mailboxRefinesTheFifo :
    running.session ≠ .terminated ∧
    (State.sendAll [(true, 0x3FE999999999999A#64), (false, 0#64), (true, 0x3FE6666666666666#64)] running []).map (·.2) =
      some [.feedbackChanged 0x3FE999999999999A#64, .frequencyChanged 0#64, .feedbackChanged 0x3FE6666666666666#64] := by decide
theorem test_witness_initStartsSession :
    idle.session = .idle ∧ idle.seq = .ready ∧ 1 ≤ (1#32).toNat ∧ (1#32).toNat ≤ idle.params.srMax.toNat ∧
      (8388608#32).toNat ≤ idle.params.srMax.toNat := by decide
theorem test_witness_initRejectsRate :
    idle.session = .idle ∧ idle.seq = .ready ∧ (0#32).toNat = 0 ∧ idle.params.srMax.toNat < (8388609#32).toNat := by decide
theorem test_witness_wrongSessionState :
    running.seq = .ready ∧ ((∃ sr, Instr.init 1#32 = .init sr) ∧ running.session = .running) ∧
    idle.seq = .ready ∧ (((∃ len, Instr.proc 0#32 = .proc len) ∨ Instr.proc 0#32 = .teardown) ∧ idle.session = .idle) :=
  ⟨rfl, ⟨⟨_, rfl⟩, rfl⟩, rfl, .inl ⟨_, rfl⟩, rfl⟩
theorem test_witness_teardownEndsSession : running.session = .running ∧ running.seq = .ready := by decide
theorem test_witness_engineUnreadableInIdle :
    (idle.session ≠ .running ∧ idle.seq = .ready ∧ ∃ t, step { idle with cmd := [0x1000000000000003C0#72] } = .next t) ∧
    (terminated.session ≠ .running ∧ terminated.session ≠ .idle ∧ ∃ t, step terminated = .next t) :=
  ⟨⟨by decide, rfl, exists_of_goesOn (by decide +kernel)⟩, by decide, by decide, exists_of_goesOn (by decide)⟩
theorem test_witness_procBeginsBlock :
    running.session = .running ∧ running.seq = .ready ∧ loopSeq 0#32 0#32 = .respond ∧ loopSeq 1#32 0#32 = .sample := by decide

/-- P1's first block, of one sample. -/
def oneSampleBlock : State := { running with cmd := [encode (.proc 1#32)], sin := [0x3F800000#32] }

theorem oneSampleBlock_delayInRange : oneSampleBlock.DelayInRange :=
  ⟨4 * Fmt.one .binary64, by decide +kernel, Nat.le_of_ble_eq_true (by decide +kernel)⟩

theorem oneSampleBlock_inv : oneSampleBlock.Inv where
  paramsValid := by decide +kernel
  ringWf := Memory.zeroFilled_wf
  faultCode := by decide
  seqBetween := by decide
  blockInSession := by decide
  loopOpen := by decide
  loopClosed := by decide
  shutdownRecorded := by decide
  rateInRange := by decide
  ringFilled := by decide
  feedbackFinite := by decide +kernel
  delayInRange := fun _ => oneSampleBlock_delayInRange

theorem test_witness_procRunsToItsResponse :
    oneSampleBlock.Inv ∧ oneSampleBlock.session = .running ∧ oneSampleBlock.seq = .ready ∧ oneSampleBlock.turns = [] ∧
      oneSampleBlock.ctl = [] ∧ oneSampleBlock.cmd = encode (.proc 1#32) :: [] ∧ oneSampleBlock.sin = [0x3F800000#32] ++ [] ∧
      [0x3F800000#32].length = (1#32).toNat := ⟨oneSampleBlock_inv, by decide⟩
theorem test_procRunsToItsResponse_values :
    (after idle (runSteps 3 oneSampleBlock)).sout = [0x3F800000#32] ∧ (after idle (runSteps 3 oneSampleBlock)).rsp = [0#32] ∧
      (after idle (runSteps 2 oneSampleBlock)).seq = .respond := by decide +kernel
theorem test_witness_sampleStepRecurrence :
    sample199.sin = 0#32 :: [] ∧
    sample199.rb.rbEvaluate sample199.fmt sample199.smoothed.readPosition = some (.fin false 0) ∧
    sample199.rb.rbEvaluate sample199.fmt (sample199.fmt.add sample199.smoothed.readPosition sample199.fmt.kOne) =
      some (.fin false (Fmt.one .binary64)) := by decide +kernel
theorem test_witness_sampleStepFrame :
    inBlock.rb.wf ∧ inBlock.sin = 0x3F800000#32 :: [] ∧ inBlock.blockDone < inBlock.blockLen ∧ ∃ t, inBlock.sampleStep = .next t :=
  ⟨Memory.zeroFilled_wf, rfl, by decide, exists_of_goesOn (by decide +kernel)⟩
/-- The last sample of a block of one, and the first of a block of two. -/
theorem test_sampleStep_seq :
    (after idle inBlock.sampleStep).seq = .respond ∧
      (after idle ({ inBlock with blockLen := 2#32 } : State).sampleStep).seq = .sample := by decide +kernel
theorem test_witness_engineStepsOfABlock :
    (inBlock.turn = .engine ∧ inBlock.session ≠ .terminated ∧ inBlock.seq = .sample ∧ inBlock.blockDone < inBlock.blockLen) ∧
    (let s := { inBlock with seq := .respond, blockDone := 1#32 }
     s.turn = .engine ∧ s.session ≠ .terminated ∧ s.seq = .respond) := by decide
theorem test_witness_oneCommandAtATime :
    (let s := { inBlock with seq := .respond, blockDone := 1#32 }
     s.seq ≠ .ready ∧ (after inBlock (step s)).seq = .ready ∧ (after inBlock (step s)).rsp = [0#32]) ∧
    (let s := { inBlock with turns := [.reset] }
     s.seq ≠ .ready ∧ (after inBlock (step s)).seq = .ready ∧ s.turn = .reset) := by decide

/-- Step a's clauses: FREQ_FLOOR itself is not below the floor; the value just under it, −infinity and −1.0 are; +infinity; a NaN. -/
theorem test_witness_targetDelayClamps :
    running.params.valid = true ∧ running.sampleRate ≤ running.params.srMax ∧
    (running.fval 0x3FEFFFFFFFFFFFFF#64).lt (running.fval running.params.freqFloor) = true ∧
    (running.fval 0xFFF0000000000000#64).lt (running.fval running.params.freqFloor) = true ∧
    (running.fval 0x3FF0000000000000#64).lt (running.fval running.params.freqFloor) = false ∧
    running.fval 0x7FF0000000000000#64 = .inf false ∧ (running.fmt.ofInt (running.sampleRate.toNat : Int)).isFinite = true ∧
    running.fval 0x7FF8000000000000#64 = .nan := by decide +kernel

/-- Steps b and c: an update with a finite target, and a target that holds the register, infinite or NaN. -/
theorem test_witness_smooth_update_and_hold :
    (running.targetDelay.isFinite = true ∧
      (onePole running.fmt running.fmt.kDn running.fmt.kDo running.targetDelay (running.fval running.smoothedDelaySamples)).isFinite =
        true) ∧
    (FVal.inf false).isFinite = false ∧
    ((running.fval running.feedbackTarget).isFinite = true ∧
      (onePole running.fmt running.fmt.kFn running.fmt.kFo (running.fval running.feedbackTarget)
        (running.fval running.smoothedFeedback)).isFinite = true) ∧
    (running.fval 0x7FF8000000000000#64).isFinite = false := by decide +kernel
theorem test_witness_readPositionInRange : running.DelayInRange := running_delayInRange
theorem test_witness_ringReadAfterWrite :
    (ring [(5, 0x3F800000#32)]).wf ∧ (5 : Int) % (ringSize : Int) = (5 - ringSize) % (ringSize : Int) ∧
      (-1 : Int) % (ringSize : Int) = 16777215 := by
  refine ⟨⟨by decide, ?_⟩, by decide, by decide⟩
  intro c hc
  simp only [ring, List.mem_singleton] at hc
  subst hc
  decide

/-- Two ring buffers that agree at 5 and 6 and differ at 7. -/
theorem test_witness_evaluateReadsTwoWords :
    let m := ring [(5, 0x3F800000#32)]
    let m' := ring [(5, 0x3F800000#32), (7, 0x40000000#32)]
    m.memRead (Fmt.floorFin .binary64 false (5 * Fmt.one .binary64)) = m'.memRead (Fmt.floorFin .binary64 false (5 * Fmt.one .binary64)) ∧
      m.memRead (Fmt.floorFin .binary64 false (5 * Fmt.one .binary64) + 1) = m'.memRead (Fmt.floorFin .binary64 false (5 * Fmt.one .binary64) + 1) ∧
      m ≠ m' := by decide +kernel

/-- L2.2's readbacks: a value, −0.0 beside a positive and beside a negative word, an infinity, a NaN, an infinite neighbour, and the
last position, whose neighbour is word 0. -/
theorem test_witness_evaluateExactReadback :
    16777215 < ringSize ∧
    (ring [(5, 0xBF800000#32)]).rbEvaluate .binary64 (Fmt.ofInt .binary64 5) = some (.fin true (Fmt.one .binary64)) ∧
    (ring [(5, 0x80000000#32), (6, 0xBF800000#32)]).rbEvaluate .binary64 (Fmt.ofInt .binary64 5) = some (.fin true 0) ∧
    (ring [(5, 0x80000000#32), (6, 0x3F800000#32)]).rbEvaluate .binary64 (Fmt.ofInt .binary64 5) = some (.fin false 0) ∧
    (ring [(5, 0xFF800000#32)]).rbEvaluate .binary64 (Fmt.ofInt .binary64 5) = some (.inf true) ∧
    (ring [(5, 0x7FC00000#32)]).rbEvaluate .binary64 (Fmt.ofInt .binary64 5) = some .nan ∧
    (ring [(0, 0xFF800000#32)]).rbEvaluate .binary64 (Fmt.ofInt .binary64 16777215) = some .nan := by decide +kernel
theorem test_witness_evaluateMidpoint :
    5 < ringSize ∧ (Fmt.widen .binary64 ((ring [(5, 0x3F800000#32)]).memRead 5)).isFinite = true ∧
      (Fmt.widen .binary64 ((ring [(5, 0x3F800000#32)]).memRead 6)).isFinite = true := by decide +kernel
theorem test_witness_historyKeptByEveryStep :
    inBlock.rb.wf ∧ inBlock.session = .running ∧ inBlock.History [] ∧
      ∃ t, step inBlock = .next t ∧ t.session = .running ∧ t.sout = [0x3F800000#32] :=
  ⟨Memory.zeroFilled_wf, rfl, running_history, by
    obtain ⟨t, ht⟩ := exists_of_goesOn (r := step inBlock) (by decide +kernel)
    have hs : (after idle (step inBlock)).session = .running ∧ (after idle (step inBlock)).sout = [0x3F800000#32] := by decide +kernel
    rw [ht] at hs
    exact ⟨t, ht, hs⟩⟩

/-- 2^24 + 1 lies halfway between the binary32 values 2^24 and 2^24 + 2: to the even multiple of 2; below the spacing's start, a
third to zero and two thirds to one unit. -/
theorem test_witness_rounding :
    Fmt.roundMag .binary32 16777217 1 = 16777216 ∧ Fmt.roundMag .binary32 16777219 1 = 16777220 ∧
    Fmt.roundMag .binary32 1 3 = 0 ∧ Fmt.roundMag .binary32 2 3 = 1 ∧ Fmt.roundMag .binary32 1 2 = 0 := by decide
theorem test_witness_roundTiesToEven :
    0 < 1 ∧ Fmt.Representable .binary32 16777218 ∧ 16777218 ≠ Fmt.roundMag .binary32 16777217 1 ∧
      |(16777217 : Int) - (Fmt.roundMag .binary32 16777217 1 : Int) * 1| = |(16777217 : Int) - (16777218 : Int) * 1| :=
  ⟨by decide, ⟨8388609, 1, by decide, by decide⟩, by decide, by decide⟩
theorem test_witness_narrowUndoesWiden : sampleVal 0x80000001#32 ≠ .nan ∧ sampleVal 0x7F800000#32 ≠ .nan := by decide +kernel
theorem test_witness_packUndoesUnpack :
    Fmt.Fits .binary32 0x80000001#64 ∧ Fmt.unpack .binary32 0x80000001#64 ≠ .nan ∧
    Fmt.Fits .binary64 0x7FEFFFFFFFFFFFFF#64 ∧ Fmt.unpack .binary64 0x7FEFFFFFFFFFFFFF#64 ≠ .nan :=
  ⟨by simp [Fmt.Fits, Fmt.trim], by decide +kernel, rfl, by decide +kernel⟩
theorem test_witness_finiteInputsMakeNoNaN :
    inBlock.Inv ∧ inBlock.session = .running ∧ inBlock.fmt = .binary64 ∧ inBlock.sin = 0x3F800000#32 :: [] ∧
      (sampleVal 0x3F800000#32).isFinite = true ∧ (∀ i, (sampleVal (inBlock.rb.memRead i)).isFinite = true) ∧
      ∃ t, inBlock.sampleStep = .next t :=
  ⟨inBlock_inv, rfl, rfl, rfl, by decide +kernel, fun _ => by
    show (sampleVal 0#32).isFinite = true
    decide +kernel, exists_of_goesOn (by decide +kernel)⟩
theorem test_witness_onlyNaNEncodingsAreOpen :
    inBlock.smoothed.sampleWord 0x3F800000#32 = some 0x3F800000#32 ∧
    ({ inBlock with draws := 7 } : State).smoothed.sampleWord 0x3F800000#32 = some 0x3F800000#32 := by decide +kernel
theorem test_witness_everyStepGoesOnAndKeepsInv : idle.Inv ∧ running.Inv ∧ inBlock.Inv := ⟨idle_inv, running_inv, inBlock_inv⟩

/-- A block of one sample in the binary32 instance, delay 4.0 and feedback 0.9. -/
def inBlock32 : State :=
  { inBlock with
    params := params32, feedbackTarget := 0x3F666666#64, smoothedFeedback := 0x3F666666#64
    frequencyTarget := 0x43700000#64, smoothedDelaySamples := 0x40800000#64, mbxFb := ⟨true, 0xFF800000#64⟩ }

theorem test_witness_registersKeepTheirFormat :
    (running.RegistersFit ∧ ∃ t, step (offeringCtl 0x013FECCCCCCCCCCCCD#72) = .next t) ∧
    (inBlock32.fmt = .binary32 ∧ inBlock32.RegistersFit ∧ ∃ t, step inBlock32 = .next t) :=
  ⟨⟨⟨rfl, rfl, rfl, rfl, rfl, rfl, rfl, rfl, rfl⟩, exists_of_goesOn (by decide)⟩,
    rfl, by unfold State.RegistersFit Fmt.Fits; decide, exists_of_goesOn (by decide +kernel)⟩

/-- A step of each kind goes on: so the statements about every step (ParamsNeverChange, SessionLifecycle, FirstFaultIsKept,
ResponsesAreTheCodes, OneCommandAtATime, ControlWritesOnlyTheMailbox, TargetsChangeOnlyAtADrain) speak of these. -/
theorem test_witness_steps_of_each_kind :
    goesOn (step { idle with cmd := [encode (.init 960#32)] }) = true ∧ goesOn (step (offeringCmd (encode .teardown))) = true ∧
    goesOn (step oneSampleBlock) = true ∧ (inBlock.seq ≠ .ready ∧ goesOn (step inBlock) = true) ∧
    goesOn (step (offeringCmd 0#72)) = true ∧ goesOn (step { running with seq := .drain }) = true ∧
    ((offeringCtl (encode (.fbk 0#64))).turn = .control ∧ goesOn (step (offeringCtl (encode (.fbk 0#64)))) = true) ∧
    (terminated.fault ≠ 0x00#8 ∧ goesOn (step terminated) = true) ∧
    goesOn (step { running with turns := [.shutdown] }) = true ∧ goesOn (step { terminated with turns := [.reset] }) = true := by
  decide +kernel
theorem test_witness_sessionLifecycle_changes :
    (after idle (step { idle with cmd := [encode (.init 960#32)] })).session = .running ∧
    (after terminated (step (offeringCmd (encode .teardown)))).session = .idle ∧
    (after idle (step (offeringCmd 0#72))).rsp = [0x81#32] := by decide +kernel
theorem test_witness_commandsWriteOnlyTheirOwn :
    goesOn (exec (.fbk 0#64) running) = true ∧ goesOn (exec (.frq 0#64) running) = true ∧ goesOn (exec (.proc 1#32) running) = true ∧
    goesOn (exec (.init 960#32) idle) = true ∧ goesOn (exec .teardown running) = true := by decide +kernel
theorem test_witness_mailboxInvisibleToSamples : ∃ t, inBlock.sampleStep = .next t := exists_of_goesOn (by decide +kernel)
theorem test_witness_shutdown_and_reset_turns :
    ({ inBlock with turns := [.shutdown] } : State).turn = .shutdown ∧ ({ terminated with turns := [.reset] } : State).turn = .reset := by
  decide
theorem test_witness_terminatedStaysInert :
    terminated.session = .terminated ∧ terminated.fault ≠ 0x00#8 ∧
      Turn.reset ∉ ({ terminated with turns := [.engine, .control, .shutdown] } : State).turns := by decide
theorem test_witness_blockHoldsWithoutInput :
    let s := { inBlock with sin := [] }
    s.turn = .engine ∧ s.session ≠ .terminated ∧ s.seq = .sample ∧ s.blockDone < s.blockLen ∧ s.sin = [] := by decide
theorem test_witness_quiescentStays : running.Quiescent ∧ running.turns = [] := ⟨⟨rfl, rfl, rfl, by decide⟩, rfl⟩

end Sys2Proof.Tests
end

section
/-! SUPPORT. Proofs about the scope's arithmetic and parameters (R5, R8, R20). Rounding lands on a nearest multiple of the format's spacing, an
even one on a tie, and a representable magnitude that is no multiple of the spacing lies below one that is; a widened value narrows back to
itself; the fields of a pattern are the ones `pack` writes; no effect of a step touches the parameters. -/

namespace Sys2Proof

/-! Rounding (R8) -/

/-- `nearestEven` is off by the remainder or by what the remainder lacks to the divisor, whichever is less. -/
theorem abs_sub_nearestEven (num : Nat) {den : Nat} (hd : 0 < den) :
    |(num : Int) - nearestEven num den * den| = (min (num % den) (den - num % den) : Nat) := by
  have hdm : (den : Int) * (num / den : Nat) + (num % den : Nat) = num := mod_cast Nat.div_add_mod num den
  have hlt := Nat.mod_lt num hd
  unfold nearestEven
  split
  · have hup : (num : Int) - (num / den + 1 : Nat) * den = -((den - num % den : Nat) : Int) := by
      rw [Nat.cast_sub hlt.le, Nat.cast_succ]
      linarith
    rw [hup, abs_neg, Nat.abs_cast]
    omega
  · have hdown : (num : Int) - (num / den : Nat) * den = (num % den : Nat) := by linarith
    rw [hdown, Nat.abs_cast]
    omega

/-- `nearestEven` is off by at most half of the divisor. -/
theorem two_mul_abs_sub_nearestEven_le (num : Nat) {den : Nat} (hd : 0 < den) :
    2 * |(num : Int) - nearestEven num den * den| ≤ den := by
  rw [abs_sub_nearestEven num hd]
  omega

/-- Where `nearestEven` is off by exactly half of the divisor, it is even. -/
theorem even_nearestEven_of_tie {num den : Nat} (hd : 0 < den)
    (h : 2 * |(num : Int) - nearestEven num den * den| = den) : Even (nearestEven num den) := by
  rw [abs_sub_nearestEven num hd] at h
  have hhalf : 2 * (num % den) = den := by omega
  rw [Nat.even_iff]
  unfold nearestEven
  split <;> omega

/-- Two different multiples of `den` are at least `den` apart, and so are the distances of any `num` to them together. -/
theorem le_abs_add_abs_of_ne {a b : Nat} (num den : Nat) (hab : a ≠ b) :
    (den : Int) ≤ |(num : Int) - a * den| + |(num : Int) - b * den| := by
  have hone : (1 : Int) ≤ |(b : Int) - a| := Int.one_le_abs (by omega)
  calc (den : Int) ≤ |(b : Int) - a| * den := le_mul_of_one_le_left (Int.natCast_nonneg _) hone
    _ = |((num : Int) - a * den) - (num - b * den)| := by
      rw [← Nat.abs_cast den, ← abs_mul, Nat.abs_cast]; congr 1; ring
    _ ≤ _ := abs_sub _ _

/-- No multiple of the divisor is nearer than `nearestEven`'s. -/
theorem nearestEven_nearest (num c : Nat) {den : Nat} (hd : 0 < den) :
    |(num : Int) - nearestEven num den * den| ≤ |(num : Int) - c * den| := by
  have hhalf := two_mul_abs_sub_nearestEven_le num hd
  rcases eq_or_ne (nearestEven num den) c with rfl | hne
  · exact le_rfl
  · linarith [le_abs_add_abs_of_ne num den hne]

/-- Where another multiple of the divisor is as near, `nearestEven` is even. -/
theorem even_nearestEven_of_eq {num den c : Nat} (hd : 0 < den) (hne : nearestEven num den ≠ c)
    (h : |(num : Int) - nearestEven num den * den| = |(num : Int) - c * den|) : Even (nearestEven num den) := by
  have hhalf := two_mul_abs_sub_nearestEven_le num hd
  exact even_nearestEven_of_tie hd (by linarith [le_abs_add_abs_of_ne num den hne])

/-- A representable magnitude that is no multiple of the spacing at `t` lies below one that is, which is not past `t`. -/
theorem Fmt.exists_quantum_multiple_between (f : Fmt) {m t : Nat} (hm : f.Representable m) (hq : ¬ f.quantum t ∣ m) :
    ∃ c, m < c * f.quantum t ∧ c * f.quantum t ≤ t := by
  obtain ⟨k, e, hk, rfl⟩ := hm
  have he : e < t.log2 + 1 - f.precision := by
    by_contra hge
    exact hq (Dvd.dvd.mul_left (Nat.pow_dvd_pow 2 (by omega)) k)
  have ht : t ≠ 0 := by
    rintro rfl
    have := f.precision_pos
    have hlog : Nat.log2 0 = 0 := by decide
    omega
  have htop : 2 ^ (f.precision - 1) * f.quantum t = 2 ^ t.log2 := by
    have := f.precision_pos
    unfold Fmt.quantum
    rw [← Nat.pow_add]
    congr 1
    omega
  refine ⟨2 ^ (f.precision - 1), ?_, htop ▸ Nat.log2_self_le ht⟩
  calc k * 2 ^ e < 2 ^ f.precision * 2 ^ e := Nat.mul_lt_mul_of_pos_right hk (Nat.two_pow_pos e)
    _ = 2 ^ (f.precision + e) := (Nat.pow_add _ _ _).symm
    _ ≤ 2 ^ t.log2 := Nat.pow_le_pow_right (by decide) (by omega)
    _ = _ := htop.symm

/-- A rounded magnitude times the divisor is `nearestEven`'s multiple of the divisor at the spacing. -/
theorem Fmt.roundMag_mul (f : Fmt) (num den : Nat) :
    (f.roundMag num den : Int) * den =
      nearestEven num (den * f.quantum (num / den)) * (den * f.quantum (num / den) : Nat) := by
  unfold Fmt.roundMag
  push_cast
  ring

/-- No multiple of the spacing is nearer to `num / den` than the rounded magnitude. -/
theorem Fmt.roundMag_nearest_multiple (f : Fmt) (num c : Nat) {den : Nat} (hd : 0 < den) :
    |(num : Int) - f.roundMag num den * den| ≤ |(num : Int) - (c * f.quantum (num / den) : Nat) * den| := by
  have h := nearestEven_nearest num c (Nat.mul_pos hd (f.quantum_pos (num / den)))
  rw [← f.roundMag_mul] at h
  convert h using 3
  push_cast
  ring

/-- A representable magnitude that is no multiple of the spacing is farther from `num / den` than the rounded one. -/
theorem Fmt.roundMag_nearer_of_not_dvd (f : Fmt) {m num den : Nat} (hd : 0 < den) (hm : f.Representable m)
    (hq : ¬ f.quantum (num / den) ∣ m) :
    |(num : Int) - f.roundMag num den * den| < |(num : Int) - m * den| := by
  obtain ⟨c, hlt, hle⟩ := f.exists_quantum_multiple_between hm hq
  have hm' : (m : Int) * den < (c * f.quantum (num / den) : Nat) * den := mod_cast Nat.mul_lt_mul_of_pos_right hlt hd
  have hc : ((c * f.quantum (num / den) : Nat) : Int) * den ≤ num := mod_cast (Nat.le_div_iff_mul_le hd).1 hle
  calc _ ≤ |(num : Int) - (c * f.quantum (num / den) : Nat) * den| := f.roundMag_nearest_multiple num c hd
    _ < |(num : Int) - m * den| := by
      rw [abs_of_nonneg (by linarith), abs_of_nonneg (by linarith)]
      linarith

/-- Settles O32: a multiple of the spacing is no nearer by `nearestEven`, and any other representable magnitude lies below one. -/
theorem roundToNearest : Obligations.RoundToNearest := by
  intro f num den hd
  refine ⟨f.representable_roundMag hd, fun m hm => ?_⟩
  by_cases hq : f.quantum (num / den) ∣ m
  · obtain ⟨c, rfl⟩ := exists_eq_mul_left_of_dvd hq
    exact f.roundMag_nearest_multiple num c hd
  · exact (f.roundMag_nearer_of_not_dvd hd hm hq).le

/-- Settles O33: only a multiple of the spacing can be exactly as near, and then `nearestEven` took the even one. -/
theorem roundTiesToEven : Obligations.RoundTiesToEven := by
  intro f num den m hd hm hne htie
  by_cases hq : f.quantum (num / den) ∣ m
  · obtain ⟨c, rfl⟩ := exists_eq_mul_left_of_dvd hq
    have hc : nearestEven num (den * f.quantum (num / den)) ≠ c := by
      rintro rfl
      exact hne rfl
    rw [f.roundMag_mul, show ((c * f.quantum (num / den) : Nat) : Int) * den = c * (den * f.quantum (num / den) : Nat) by
      push_cast; ring] at htie
    obtain ⟨j, hj⟩ := even_nearestEven_of_eq (Nat.mul_pos hd (f.quantum_pos _)) hc htie
    exact ⟨j, by rw [Fmt.roundMag, hj, two_mul]⟩
  · exact absurd htie (f.roundMag_nearer_of_not_dvd hd hm hq).ne

/-! Patterns (R51, R74) -/

/-- A pattern of the format is a number of the format's bits. -/
theorem Fmt.Fits.toNat_lt {f : Fmt} {b : FWord} (h : f.Fits b) : b.toNat < 2 * 2 ^ f.magBits := by
  cases f with
  | binary32 =>
    have hb : (b.setWidth 32).setWidth 64 = b := h
    rw [← hb, BitVec.toNat_setWidth_of_le (by decide)]
    exact (b.setWidth 32).isLt
  | binary64 => exact b.isLt

/-- A sample word zero-extended to a pattern is the pattern's low half. -/
theorem setWidth_setWidth_sample (w : Sample) : (w.setWidth 64).setWidth 32 = w := by
  rw [BitVec.setWidth_setWidth_of_le _ (by decide), BitVec.setWidth_eq]

/-- A sample word in a pattern's place is a binary32 pattern. -/
theorem Fmt.fits_setWidth_sample (w : Sample) : Fmt.Fits .binary32 (w.setWidth 64) :=
  congrArg (BitVec.setWidth 64) (setWidth_setWidth_sample w)

/-- The exponent and fraction fields of a magnitude are those it was made from. -/
theorem Fmt.packMag_magOfFields (f : Fmt) (e : Nat) {frac : Nat} (hfrac : frac < 2 ^ f.fracBits) :
    f.packMag (f.magOfFields e frac) = e * 2 ^ f.fracBits + frac := by
  have hp : f.precision = f.fracBits + 1 := by cases f <;> rfl
  unfold Fmt.packMag Fmt.magOfFields
  by_cases he : e = 0
  · have hlog : frac.log2 + 1 - f.precision = 0 := by
      rcases eq_or_ne frac 0 with rfl | h0
      · simp [hp]
      · have := (Nat.log2_lt h0).2 hfrac
        omega
    simp [he, hlog]
  · have hlog : ((2 ^ f.fracBits + frac) * 2 ^ (e - 1)).log2 = f.fracBits + (e - 1) := by
      rw [Nat.log2_eq_iff (by positivity), Nat.pow_succ, Nat.pow_add, Nat.mul_right_comm]
      exact ⟨Nat.mul_le_mul_right _ (by omega), Nat.mul_lt_mul_of_pos_right (by omega) (Nat.two_pow_pos _)⟩
    have hk : f.fracBits + (e - 1) + 1 - f.precision = e - 1 := by omega
    simp only [if_neg he, hlog, hk, Nat.mul_div_cancel _ (Nat.two_pow_pos (e - 1))]
    obtain ⟨d, rfl⟩ := Nat.exists_eq_succ_of_ne_zero he
    rw [Nat.succ_sub_one, Nat.succ_mul]
    omega

/-- A pattern's sign, exponent and fraction fields make up its number. -/
theorem Fmt.fields_toNat (f : Fmt) {b : FWord} (h : f.Fits b) :
    f.signBits (b.toNat / 2 ^ f.magBits % 2 == 1) +
      (b.toNat / 2 ^ f.fracBits % 2 ^ f.expBits * 2 ^ f.fracBits + b.toNat % 2 ^ f.fracBits) = b.toNat := by
  have hlow : b.toNat / 2 ^ f.fracBits % 2 ^ f.expBits * 2 ^ f.fracBits + b.toNat % 2 ^ f.fracBits =
      b.toNat % 2 ^ f.magBits := by
    rw [f.two_pow_magBits, Nat.mul_comm (2 ^ f.expBits), Nat.mod_mul, Nat.mul_comm, Nat.add_comm]
  have hsign : b.toNat / 2 ^ f.magBits < 2 := (Nat.div_lt_iff_lt_mul (Nat.two_pow_pos _)).2 h.toNat_lt
  have hdm := Nat.div_add_mod b.toNat (2 ^ f.magBits)
  rw [hlow]
  unfold Fmt.signBits
  rcases Nat.lt_succ_iff_lt_or_eq.1 hsign with h0 | h1
  · rw [Nat.lt_one_iff] at h0
    simpa [h0] using hdm
  · simpa [h1] using hdm

/-- A pattern of the format that is no NaN is the pattern of its value. -/
theorem Fmt.pack_unpack (f : Fmt) (raw : BitVec 64) {b : FWord} (hb : f.Fits b) (hn : f.unpack b ≠ .nan) :
    f.pack raw (f.unpack b) = b := by
  have hfields := f.fields_toNat hb
  unfold Fmt.unpack at hn ⊢
  simp only at hn ⊢
  by_cases he : b.toNat / 2 ^ f.fracBits % 2 ^ f.expBits = f.expMax
  · by_cases hf : b.toNat % 2 ^ f.fracBits = 0
    · rw [he, hf, Nat.add_zero] at hfields
      simp only [he, hf, if_true, Fmt.pack, hfields, BitVec.ofNat_toNat, BitVec.setWidth_eq]
    · simp [he, hf] at hn
  · simp only [if_neg he, Fmt.pack, f.packMag_magOfFields _ (Nat.mod_lt _ (Nat.two_pow_pos _)), hfields,
      BitVec.ofNat_toNat, BitVec.setWidth_eq]

/-- Settles O35: the fields `pack` writes are the pattern's own. -/
theorem packUndoesUnpack : Obligations.PackUndoesUnpack := fun f raw _ hb hn => f.pack_unpack raw hb hn

/-! Widening and narrowing (R8) -/

/-- A quotient that is a finite magnitude of the format rounds to it. -/
theorem Fmt.round_exact (f : Fmt) (s : Bool) {m num den : Nat} (hd : 0 < den) (hm : f.Representable m)
    (hmax : m ≤ f.maxMag) (h : num = m * den) : f.round s num den = .fin s m := by
  rw [Fmt.round, h, f.roundMag_exact hd hm, if_pos hmax]

/-- The magnitude of 1.0 in binary64 is 2^925 times that in binary32: the units differ by that factor. -/
theorem Fmt.one_binary64 : Fmt.one .binary64 = 2 ^ 925 * Fmt.one .binary32 := by
  unfold Fmt.one
  rw [← Nat.pow_add]
  congr 1

/-- A finite binary32 magnitude counted in binary64's units is a finite binary64 magnitude. -/
theorem Fmt.isValue_binary64_of_binary32 {s : Bool} {m : Nat} (h : Fmt.IsValue .binary32 (.fin s m)) :
    Fmt.IsValue .binary64 (.fin s (m * 2 ^ 925)) := by
  obtain ⟨⟨k, e, hk, rfl⟩, hmax⟩ := h
  have hwide : Fmt.Representable .binary64 (k * 2 ^ e) := ⟨k, e, hk.trans (by decide), rfl⟩
  have hbound : Fmt.maxMag .binary32 * 2 ^ 925 ≤ Fmt.maxMag .binary64 := Nat.le_of_ble_eq_true (by decide +kernel)
  exact ⟨hwide.mul_pow 925, (Nat.mul_le_mul_right _ hmax).trans hbound⟩

/-- Widening is exact: a finite binary32 value keeps its value in binary64. -/
theorem Fmt.convert_binary32_binary64 {s : Bool} {m : Nat} (h : Fmt.IsValue .binary32 (.fin s m)) :
    Fmt.convert .binary32 .binary64 (.fin s m) = .fin s (m * 2 ^ 925) := by
  obtain ⟨hm, hmax⟩ := Fmt.isValue_binary64_of_binary32 h
  rw [Fmt.convert, if_neg (by decide)]
  exact Fmt.round_exact .binary64 s (Fmt.one_pos _) hm hmax (by rw [Fmt.one_binary64, Nat.mul_assoc])

/-- A finite binary32 value in binary64 converts back to itself. -/
theorem Fmt.convert_binary64_binary32 {s : Bool} {m : Nat} (h : Fmt.IsValue .binary32 (.fin s m)) :
    Fmt.convert .binary64 .binary32 (.fin s (m * 2 ^ 925)) = .fin s m := by
  rw [Fmt.convert, if_neg (by decide)]
  exact Fmt.round_exact .binary32 s (Fmt.one_pos _) h.1 h.2 (by rw [Fmt.one_binary64, Nat.mul_assoc])

/-- Narrowing a widened binary32 value gives it back. -/
theorem Fmt.narrowVal_convert (f : Fmt) {x : FVal} (hx : Fmt.IsValue .binary32 x) :
    f.narrowVal (Fmt.convert .binary32 f x) = x := by
  unfold Fmt.narrowVal
  cases x with
  | nan => rfl
  | inf s => rfl
  | fin s m =>
    cases f with
    | binary32 => rfl
    | binary64 => rw [Fmt.convert_binary32_binary64 hx, Fmt.convert_binary64_binary32 hx]

/-- Settles O34: the value comes back from F, and its pattern is the sample word. -/
theorem narrowUndoesWiden : Obligations.NarrowUndoesWiden := by
  intro f raw w hw
  unfold Fmt.narrow Fmt.widen
  rw [f.narrowVal_convert (Fmt.isValue_unpack _ _), Fmt.pack_unpack _ raw (Fmt.fits_setWidth_sample w) hw,
    setWidth_setWidth_sample]

namespace Machine

/-! The parameters (R5, R20) -/

/-- No command changes the parameters. -/
theorem ExecEffect.params_eq {i : Instr} {s t : State} (h : ExecEffect i s t) : t.params = s.params := by
  cases h <;> simp

/-- No turn changes the parameters. -/
theorem StepEffect.params_eq {u : Turn} {s t : State} (h : StepEffect u s t) : t.params = s.params := by
  cases h with
  | ctlCommand _ _ _ _ he => exact he.params_eq
  | cmdCommand _ _ _ _ he => exact he.params_eq
  | _ => simp

/-- Settles O41: every effect a step can have keeps the parameters. -/
theorem paramsNeverChange : Obligations.ParamsNeverChange :=
  fun _ _ h => (step_effect h).params_eq

end Machine

end Sys2Proof
end

section
/-! SUPPORT. What a turn answers in each of its cases, said once: the converse of `exec_effect`, the equations of the two ports' turns
and of the sample step, and that an accepted word's step answers a next state. -/

namespace Sys2Proof.Machine

/-- What `ExecEffect` lists for a command is what the command does. -/
theorem exec_of_effect {i : Instr} {s t : State} (he : ExecEffect i s t) : exec i s = .next t := by
  cases he with
  | ctlNotAccepted hi h =>
    cases i with
    | fbk | frq => simp [exec, execFbk, execFrq, h]
    | init | proc | teardown => cases hi
  | cmdNotAccepted hi h =>
    cases i with
    | fbk | frq => cases hi
    | init | proc | teardown => simp [exec, execInit, execProc, execTeardown, h]
  | feedback h => exact if_pos h
  | frequency h => exact if_pos h
  | wrongState hi h hs =>
    cases i with
    | fbk | frq => cases hi
    | init | proc | teardown => exact (if_pos h).trans (if_pos hs)
  | initFails h hs hr => simp [exec, execInit, h, hs, hr]
  | initStarts h hs hr => simp [exec, execInit, h, hs, hr]
  | blockBegins h hs => simp [exec, execProc, h, hs]
  | sessionEnds h hs => simp [exec, execTeardown, h, hs]

/-- A Control turn with nothing to accept holds. -/
theorem controlStep_held {s : State} (h : s.ctl = [] ∨ s.acceptsCtl = false) : s.controlStep = .next s := by
  unfold State.controlStep
  split
  · rfl
  · rename_i hq
    have ha : s.acceptsCtl = false := h.resolve_left (by rw [hq]; exact List.cons_ne_nil _ _)
    rw [ha]
    rfl

/-- A Control turn that accepts a word runs it. -/
theorem controlStep_accepts {s : State} {w : CmdWord} {rest : List CmdWord} (hq : s.ctl = w :: rest)
    (ha : s.acceptsCtl = true) : s.controlStep = (s.takeCtl rest).runWord .ctl w := by
  simp only [State.controlStep, hq, ha, if_true]

/-- A READY Engine's turn with nothing to accept holds. -/
theorem acceptStep_held {s : State} (h : s.cmd = [] ∨ s.acceptsCmd = false) : s.acceptStep = .next s := by
  unfold State.acceptStep
  split
  · rfl
  · rename_i hq
    have ha : s.acceptsCmd = false := h.resolve_left (by rw [hq]; exact List.cons_ne_nil _ _)
    rw [ha]
    rfl

/-- A READY Engine's turn that accepts a word runs it. -/
theorem acceptStep_accepts {s : State} {w : CmdWord} {rest : List CmdWord} (hq : s.cmd = w :: rest)
    (ha : s.acceptsCmd = true) : s.acceptStep = (s.takeCmd rest).runWord .cmd w := by
  simp only [State.acceptStep, hq, ha, if_true]

theorem engineStep_of_terminated {s : State} (h : s.session = .terminated) : s.engineStep = .next s := if_pos h

theorem engineStep_of_ready {s : State} (h : s.session ≠ .terminated) (hq : s.seq = .ready) :
    s.engineStep = s.acceptStep := by
  simp only [State.engineStep, if_neg h, hq]

/-- A sample step that finds an input word and makes a sample word of it delivers that word. -/
theorem sampleStep_eq_next {s : State} {x y : Sample} {rest : List Sample} (hx : s.sin = x :: rest)
    (hy : s.smoothed.sampleWord x = some y) :
    s.sampleStep = .next ((s.smoothed.writeback y).advance.transfer rest y).countSample := by
  simp only [State.sampleStep, hx, hy]

/-- Without an input word a sample step holds. -/
theorem sampleStep_held {s : State} (hx : s.sin = []) : s.sampleStep = .next s := by
  simp only [State.sampleStep, hx]

/-- An accepted word's step answers a next state. -/
theorem runWord_total (s : State) (p : Port) (w : CmdWord) : ∃ t, s.runWord p w = .next t := by
  unfold State.runWord
  split
  · exact exec_total _ _
  · cases p <;> exact ⟨_, rfl⟩

theorem controlStep_total (s : State) : ∃ t, s.controlStep = .next t := by
  unfold State.controlStep
  split
  · exact ⟨_, rfl⟩
  · split
    · exact runWord_total _ _ _
    · exact ⟨_, rfl⟩

theorem acceptStep_total (s : State) : ∃ t, s.acceptStep = .next t := by
  unfold State.acceptStep
  split
  · exact ⟨_, rfl⟩
  · split
    · exact runWord_total _ _ _
    · exact ⟨_, rfl⟩

end Sys2Proof.Machine
end

section
/-! SUPPORT. Proofs about a sample step's writes (R33, R100, R102, R109, R110) and about the mailbox, which it does not read (R61, R112).
A word written to the ring buffer is read back, and every other word reads as before (R52). -/

namespace Sys2Proof.Machine

theorem cellLookup_eq_none {i : Nat} {l : List (Nat × Sample)} (h : ∀ c ∈ l, c.1 ≠ i) : cellLookup i l = none := by
  induction l with
  | nil => rfl
  | cons c rest ih =>
    rw [cellLookup, if_neg (h c List.mem_cons_self)]
    exact ih fun d hd => h d (List.mem_cons_of_mem _ hd)

/-- After an insertion the inserted word is found, and every other index as before. -/
theorem cellLookup_cellInsert (i j : Nat) (v : Sample) (l : List (Nat × Sample)) :
    cellLookup j (cellInsert i v l) = if i = j then some v else cellLookup j l := by
  induction l with
  | nil => rfl
  | cons c rest ih =>
    simp only [cellInsert]
    split
    · rfl
    · split
      · rename_i hic
        simp only [cellLookup, ← hic]
        split <;> rfl
      · rename_i hic
        simp only [cellLookup, ih]
        by_cases hc : c.1 = j
        · rw [if_pos hc, if_neg (hc ▸ hic), if_pos hc]
        · rw [if_neg hc, if_neg hc]

theorem cellLookup_cellErase_of_ne {i j : Nat} (h : i ≠ j) (l : List (Nat × Sample)) :
    cellLookup j (cellErase i l) = cellLookup j l := by
  induction l with
  | nil => rfl
  | cons c rest ih =>
    simp only [cellErase]
    split
    · rename_i hc
      rw [cellLookup, if_neg (hc ▸ h)]
    · simp only [cellLookup, ih]

theorem cellLookup_cellErase_same (i : Nat) {l : List (Nat × Sample)} (h : l.Pairwise fun a b => a.1 < b.1) :
    cellLookup i (cellErase i l) = none := by
  induction l with
  | nil => rfl
  | cons c rest ih =>
    obtain ⟨hc, hr⟩ := List.pairwise_cons.1 h
    simp only [cellErase]
    split
    · rename_i hci
      exact cellLookup_eq_none fun d hd => (hci ▸ hc d hd).ne'
    · rename_i hci
      rw [cellLookup, if_neg hci, ih hr]

/-- A word written is read back, and every other word reads as before. -/
theorem Memory.readAt_writeAt {m : Memory} (h : m.wf) (i j : Nat) (v : Sample) :
    (m.writeAt i v).readAt j = if i = j then v else m.readAt j := by
  obtain ⟨hrising, -⟩ := h
  show (cellLookup j (if v = m.unlisted i then cellErase i m.cells else cellInsert i v m.cells)).getD (m.unlisted j) = _
  unfold Memory.readAt
  split
  · rename_i hv
    by_cases hij : i = j
    · subst hij
      rw [cellLookup_cellErase_same _ hrising, if_pos rfl, hv, Option.getD_none]
    · rw [cellLookup_cellErase_of_ne hij, if_neg hij]
  · rw [cellLookup_cellInsert]
    split <;> rfl

/-- MemRead after MemWrite, at every pair of addresses. -/
theorem Memory.memRead_memWrite {m : Memory} (h : m.wf) (i j : Int) (v : Sample) :
    (m.memWrite i v).memRead j = if ringIndex i = ringIndex j then v else m.memRead j :=
  Memory.readAt_writeAt h _ _ v

/-- writePointer is an index below N. -/
theorem ringIndex_toNat (w : BitVec 24) : ringIndex (w.toNat : Int) = w.toNat := by
  have := w.isLt
  unfold ringIndex ringSize
  omega

/-- Settles O22: the step that takes a word is `writeback`, `advance`, `transfer` and `countSample` of the smoothed state. -/
theorem sampleStepFrame : Obligations.SampleStepFrame := by
  intro s t x rest hwf hsin h
  rcases sampleStep_cases h with ⟨hnil, -⟩ | ⟨x', rest', y, hx, -, rfl⟩
  · rw [hsin] at hnil
    cases hnil
  · obtain ⟨-, rfl⟩ := List.cons.inj (hsin.symm.trans hx)
    refine ⟨y, by simp, by simp, fun i => ?ring, ?pointer, by simp, fun hk => ?seq, ?frame⟩
    case ring =>
      have hread := Memory.memRead_memWrite hwf (s.writePointer.toNat : Int) i y
      rw [ringIndex_toNat] at hread
      simpa [Memory.rbWrite, eq_comm] using hread
    case pointer => simp [BitVec.toNat_add]
    case seq => simp [loopSeq_succ hk]
    case frame =>
      simp only [State.countSample, State.transfer, State.advance, State.writeback, State.smoothed, State.smoothFeedback,
        State.smoothDelay]

theorem State.withMailbox_smoothed (s e : State) : (s.withMailbox e).smoothed = s.smoothed.withMailbox e := rfl

theorem State.withMailbox_sampleWord (s e : State) (x : Sample) : (s.withMailbox e).sampleWord x = s.sampleWord x := rfl

/-- Settles O49: the word a sample step makes does not depend on the mailbox, and its parts leave the mailbox. -/
theorem mailboxInvisibleToSamples : Obligations.MailboxInvisibleToSamples := by
  intro s e t h
  rcases sampleStep_cases h with ⟨hx, rfl⟩ | ⟨x, rest, y, hx, hy, rfl⟩
  · exact sampleStep_held (s := t.withMailbox e) hx
  · have hword : (s.withMailbox e).smoothed.sampleWord x = some y := by
      rw [State.withMailbox_smoothed, State.withMailbox_sampleWord, hy]
    rw [sampleStep_eq_next (s := s.withMailbox e) hx hword]
    rfl

end Sys2Proof.Machine
end

section
/-! SUPPORT. Proof that the engine registers and RB reach nothing outside a session (R20): each turn with other engine registers does the
same, but for those registers. -/

namespace Sys2Proof.Machine

/-- Outside a session a command does the same with other engine registers, but for those registers. -/
theorem ExecEffect.withEngine {i : Instr} {s t : State} (he : ExecEffect i s t) (e : State)
    (hs : s.session ≠ .running) : ∃ e', ExecEffect i (s.withEngine e) (t.withEngine e') := by
  cases he with
  | ctlNotAccepted hi h => exact ⟨e, .ctlNotAccepted hi h⟩
  | cmdNotAccepted hi h => exact ⟨e, .cmdNotAccepted hi h⟩
  | feedback h => exact ⟨e, .feedback h⟩
  | frequency h => exact ⟨e, .frequency h⟩
  | wrongState hi h hw => exact ⟨e, .wrongState hi h hw⟩
  | initFails h hi hr => exact ⟨e, .initFails h hi hr⟩
  | @initStarts sr _ h hi hr => exact ⟨s.startSession sr, .initStarts (s := s.withEngine e) h hi hr⟩
  | blockBegins _ hr => exact absurd hr hs
  | sessionEnds _ hr => exact absurd hr hs

/-- An accepted word's step outside a session does the same with other engine registers, but for those registers. -/
theorem runWord_withEngine {p : Port} {w : CmdWord} {s t : State} (e : State) (hs : s.session ≠ .running)
    (h : s.runWord p w = .next t) : ∃ e', (s.withEngine e).runWord p w = .next (t.withEngine e') := by
  unfold State.runWord at h ⊢
  cases hd : decode p w with
  | instr i =>
    rw [hd] at h
    obtain ⟨e', he⟩ := (exec_effect h).withEngine e hs
    exact ⟨e', exec_of_effect he⟩
  | illegal why =>
    rw [hd] at h
    cases p <;> cases h <;> exact ⟨e, rfl⟩

/-- A Control turn outside a session does the same with other engine registers, but for those registers. -/
theorem controlStep_withEngine {s t : State} (e : State) (hs : s.session ≠ .running) (h : s.controlStep = .next t) :
    ∃ e', (s.withEngine e).controlStep = .next (t.withEngine e') := by
  by_cases hheld : s.ctl = [] ∨ s.acceptsCtl = false
  · rw [controlStep_held hheld] at h
    cases h
    exact ⟨e, controlStep_held (s := s.withEngine e) hheld⟩
  · obtain ⟨hne, ha⟩ := not_or.1 hheld
    obtain ⟨w, rest, hq⟩ := List.exists_cons_of_ne_nil hne
    rw [Bool.not_eq_false] at ha
    rw [controlStep_accepts hq ha] at h
    rw [controlStep_accepts (s := s.withEngine e) hq ha]
    exact runWord_withEngine (s := s.takeCtl rest) e hs h

theorem acceptStep_withEngine {s t : State} (e : State) (hs : s.session ≠ .running) (h : s.acceptStep = .next t) :
    ∃ e', (s.withEngine e).acceptStep = .next (t.withEngine e') := by
  by_cases hheld : s.cmd = [] ∨ s.acceptsCmd = false
  · rw [acceptStep_held hheld] at h
    cases h
    exact ⟨e, acceptStep_held (s := s.withEngine e) hheld⟩
  · obtain ⟨hne, ha⟩ := not_or.1 hheld
    obtain ⟨w, rest, hq⟩ := List.exists_cons_of_ne_nil hne
    rw [Bool.not_eq_false] at ha
    rw [acceptStep_accepts hq ha] at h
    rw [acceptStep_accepts (s := s.withEngine e) hq ha]
    exact runWord_withEngine (s := s.takeCmd rest) e hs h

theorem engineStep_withEngine {s t : State} (e : State) (hs : s.session ≠ .running)
    (hready : s.session = .idle → s.seq = .ready) (h : s.engineStep = .next t) :
    ∃ e', (s.withEngine e).engineStep = .next (t.withEngine e') := by
  cases hsess : s.session with
  | running => exact absurd hsess hs
  | terminated =>
    rw [engineStep_of_terminated hsess] at h
    cases h
    exact ⟨e, engineStep_of_terminated (s := s.withEngine e) hsess⟩
  | idle =>
    have hlive : s.session ≠ .terminated := by rw [hsess]; decide
    rw [engineStep_of_ready hlive (hready hsess)] at h
    rw [engineStep_of_ready (s := s.withEngine e) hlive (hready hsess)]
    exact acceptStep_withEngine e hs h

/-- Settles O18: no turn reads the engine registers outside a session. -/
theorem engineUnreadableInIdle : Obligations.EngineUnreadableInIdle := by
  intro s e t hs hready h
  suffices hstep : ∃ e', step (s.withEngine e) = .next (t.withEngine e') by
    obtain ⟨e', he'⟩ := hstep
    exact ⟨_, he', rfl⟩
  show ∃ e', (s.passTurn.withEngine e).takeTurn s.turn = _
  unfold step at h
  cases hu : s.turn with rw [hu] at h
  | engine => exact engineStep_withEngine (s := s.passTurn) e hs hready h
  | control => exact controlStep_withEngine (s := s.passTurn) e hs h
  | shutdown =>
    cases h
    exact ⟨e, rfl⟩
  | reset =>
    cases h
    exact ⟨s.powerOn, rfl⟩

end Sys2Proof.Machine
end

section
/-! SUPPORT. Proof that F registers, mailbox values and F parameters hold patterns of their format (log 1): packing a value of the format
gives one, and every operation keeps them. -/

namespace Sys2Proof

/-- A number of the format's bits is a pattern of the format. -/
theorem Fmt.fits_ofNat {f : Fmt} {n : Nat} (h : n < 2 * 2 ^ f.magBits) : f.Fits (BitVec.ofNat 64 n) := by
  cases f with
  | binary64 => rfl
  | binary32 =>
    have hn : n < 2 ^ 32 := h
    apply BitVec.eq_of_toNat_eq
    simp only [Fmt.trim, BitVec.toNat_setWidth, BitVec.toNat_ofNat]
    omega

theorem Fmt.fits_zero (f : Fmt) : f.Fits 0#64 := f.fits_ofNat (by positivity)

theorem Fmt.fits_trim (f : Fmt) (b : BitVec 64) : f.Fits (f.trim b) := by
  cases f with
  | binary64 => rfl
  | binary32 => exact Fmt.fits_setWidth_sample (b.setWidth 32)

theorem Fmt.signBits_le (f : Fmt) (s : Bool) : f.signBits s ≤ 2 ^ f.magBits := by
  unfold Fmt.signBits
  split
  · exact le_rfl
  · exact Nat.zero_le _

/-- The exponent field of all ones, with any fraction, lies below the sign bit. -/
theorem Fmt.expMax_mul_add_lt (f : Fmt) {frac : Nat} (h : frac < 2 ^ f.fracBits) :
    f.expMax * 2 ^ f.fracBits + frac < 2 ^ f.magBits := by
  rw [f.two_pow_magBits]
  calc f.expMax * 2 ^ f.fracBits + frac < (f.expMax + 1) * 2 ^ f.fracBits := by rw [Nat.succ_mul]; omega
    _ ≤ 2 ^ f.expBits * 2 ^ f.fracBits := Nat.mul_le_mul_right _ f.expMax_lt

theorem Fmt.fracBits_pos (f : Fmt) : 0 < f.fracBits := by cases f <;> decide

/-- Packing a value of the format gives a pattern of the format. -/
theorem Fmt.fits_pack (f : Fmt) (raw : BitVec 64) {x : FVal} (hx : f.IsValue x) : f.Fits (f.pack raw x) := by
  have hone : 1 < 2 ^ f.fracBits := Nat.one_lt_two_pow f.fracBits_pos.ne'
  cases x with
  | nan =>
    have hfrac : (if raw.toNat % 2 ^ f.fracBits = 0 then 1 else raw.toNat % 2 ^ f.fracBits) < 2 ^ f.fracBits := by
      split
      · exact hone
      · exact Nat.mod_lt _ (by omega)
    have hsign := f.signBits_le (raw.toNat / 2 ^ f.magBits % 2 == 1)
    have hmag := f.expMax_mul_add_lt hfrac
    exact f.fits_ofNat (by omega)
  | inf s =>
    have hsign := f.signBits_le s
    have hmag := f.expMax_mul_add_lt (by omega : 0 < 2 ^ f.fracBits)
    exact f.fits_ofNat (by omega)
  | fin s m =>
    have hsign := f.signBits_le s
    have hmag := f.packMag_lt hx.1 hx.2
    exact f.fits_ofNat (by omega)

namespace Machine

/-- An operand in F is a pattern of F. -/
theorem fits_toArith (f : Fmt) (raw : BitVec 64) (a : Arg) : f.Fits (toArith f raw a) := by
  cases f with
  | binary64 => rfl
  | binary32 => exact Fmt.fits_pack _ raw (Fmt.isValue_convert _ _ (Fmt.isValue_unpack _ a))

theorem fits_smoothReg {f : Fmt} (kNew kOld target : FVal) {reg : FWord} (h : f.Fits reg) :
    f.Fits (smoothReg f kNew kOld target reg) := by
  unfold smoothReg
  simp only
  split
  · exact f.fits_pack 0 (f.isValue_add _ _)
  · exact h

theorem Slot.fits_drainInto {f : Fmt} {m : Slot} {target : FWord} (hm : f.Fits m.value) (ht : f.Fits target) :
    f.Fits (m.drainInto target) := by
  unfold Slot.drainInto
  split
  · exact hm
  · exact ht

namespace State.RegistersFit

variable {s : State}

theorem drain (h : s.RegistersFit) : s.drain.RegistersFit := by
  obtain ⟨hft, hsf, hqt, hsd, hfb, hfq, hpar⟩ := h
  exact ⟨Slot.fits_drainInto hfb hft, hsf, Slot.fits_drainInto hfq hqt, hsd, hfb, hfq, hpar⟩

theorem smoothed (h : s.RegistersFit) : s.smoothed.RegistersFit := by
  obtain ⟨hft, hsf, hqt, hsd, hrest⟩ := h
  exact ⟨hft, fits_smoothReg _ _ _ hsf, hqt, fits_smoothReg _ _ _ hsd, hrest⟩

theorem writeback (h : s.RegistersFit) (y : Sample) : (s.writeback y).RegistersFit := h

theorem advance (h : s.RegistersFit) : s.advance.RegistersFit := h

theorem transfer (h : s.RegistersFit) (rest : List Sample) (y : Sample) : (s.transfer rest y).RegistersFit := h

theorem countSample (h : s.RegistersFit) : s.countSample.RegistersFit := h

theorem fillFb (h : s.RegistersFit) (arg : Arg) : (s.fillFb arg).RegistersFit := by
  obtain ⟨hft, hsf, hqt, hsd, -, hrest⟩ := h
  exact ⟨hft, hsf, hqt, hsd, fits_toArith _ _ arg, hrest⟩

theorem fillFq (h : s.RegistersFit) (arg : Arg) : (s.fillFq arg).RegistersFit := by
  obtain ⟨hft, hsf, hqt, hsd, hfb, -, hpar⟩ := h
  exact ⟨hft, hsf, hqt, hsd, hfb, fits_toArith _ _ arg, hpar⟩

theorem loseEngine (h : s.RegistersFit) : s.loseEngine.RegistersFit := by
  obtain ⟨-, -, -, -, hrest⟩ := h
  exact ⟨s.fmt.fits_trim _, s.fmt.fits_trim _, s.fmt.fits_trim _, s.fmt.fits_trim _, hrest⟩

theorem powerOn (h : s.RegistersFit) : s.powerOn.RegistersFit := by
  obtain ⟨hft, hsf, hqt, hsd, -, -, hpar⟩ := h.loseEngine
  exact ⟨hft, hsf, hqt, hsd, s.fmt.fits_trim _, s.fmt.fits_trim _, hpar⟩

theorem startSession (h : s.RegistersFit) (sr : BitVec 32) : (s.startSession sr).RegistersFit := by
  obtain ⟨-, -, -, -, hfb, hfq, hfloor, hrf, hrq⟩ := h
  have hsf : s.fmt.Fits s.initialFeedback := by
    unfold State.initialFeedback
    split
    · exact hrf
    · exact s.fmt.fits_zero
  have hsd : s.fmt.Fits (s.initialDelay sr) := by
    unfold State.initialDelay
    split
    · exact s.fmt.fits_pack _ (s.fmt.isValue_div _ _)
    · exact s.fmt.fits_zero
  exact ⟨hrf, hsf, hrq, hsd, hfb, hfq, hfloor, hrf, hrq⟩

end State.RegistersFit

/-- Every command keeps the patterns in their format. -/
theorem ExecEffect.registersFit {i : Instr} {s t : State} (he : ExecEffect i s t) (h : s.RegistersFit) :
    t.RegistersFit := by
  cases he with
  | ctlNotAccepted | cmdNotAccepted | wrongState | initFails => exact h
  | feedback => exact h.fillFb _
  | frequency => exact h.fillFq _
  | initStarts => exact h.startSession _
  | blockBegins => exact h.drain
  | sessionEnds => exact h.loseEngine

/-- Every turn keeps the patterns in their format. -/
theorem StepEffect.registersFit {u : Turn} {s t : State} (he : StepEffect u s t) (h : s.RegistersFit) :
    t.RegistersFit := by
  cases he with
  | held | shutdown | ctlIllegal | cmdIllegal | finished => exact h
  | reset => exact h.powerOn
  | ctlCommand _ _ _ _ he | cmdCommand _ _ _ _ he => exact he.registersFit h
  | drained => exact h.drain
  | sampled => exact (((h.smoothed.writeback _).advance).transfer _ _).countSample

/-- Settles O40: every value an effect of a step stores in F is packed, trimmed or copied from an F element. -/
theorem registersKeepTheirFormat : Obligations.RegistersKeepTheirFormat :=
  fun _ _ h hstep => (step_effect hstep).registersFit h

end Machine

end Sys2Proof
end

section
/-! SUPPORT. Proofs about what each command and the Control agent write (R36, R37), and about STATUS, a view of the rest (R32). -/

namespace Sys2Proof.Machine

/-- A command of CTL that does anything fills a slot. -/
theorem ExecEffect.ctl_cases {i : Instr} {s t : State} (he : ExecEffect i s t) (hp : i.port = .ctl) :
    t = s ∨ ∃ arg, t = s.fillFb arg ∨ t = s.fillFq arg := by
  cases he with
  | ctlNotAccepted => exact .inl rfl
  | feedback => exact .inr ⟨_, .inl rfl⟩
  | frequency => exact .inr ⟨_, .inr rfl⟩
  | cmdNotAccepted hi | wrongState hi => exact absurd (hp.symm.trans hi) (by decide)
  | initFails | initStarts | blockBegins | sessionEnds => cases hp

/-- No command touches the offered words, the sample streams or the schedule. -/
theorem ExecEffect.ports_eq {i : Instr} {s t : State} (he : ExecEffect i s t) :
    t.cmd = s.cmd ∧ t.ctl = s.ctl ∧ t.sin = s.sin ∧ t.sout = s.sout ∧ t.turns = s.turns := by
  cases he <;> simp

/-- Settles O46: the registers each effect of a command writes are those the statement leaves open. -/
theorem commandsWriteOnlyTheirOwn : Obligations.CommandsWriteOnlyTheirOwn := by
  intro i s t h
  have he := exec_effect h
  obtain ⟨hcmd, hctl, hsin, hsout, hturns⟩ := he.ports_eq
  refine ⟨he.params_eq, hcmd, hctl, hsin, hsout, hturns, ?_⟩
  cases he with
  | ctlNotAccepted | cmdNotAccepted => cases i <;> rfl
  | wrongState hi =>
    cases i with
    | fbk | frq => cases hi
    | init | proc | teardown => rfl
  | feedback | frequency | initFails | initStarts | blockBegins | sessionEnds => rfl

/-- Settles O47: a Control turn holds, fills a slot or records an illegal word. -/
theorem controlWritesOnlyTheMailbox : Obligations.ControlWritesOnlyTheMailbox := by
  intro s t hu h
  have he := step_effect h
  rw [hu] at he
  cases he with
  | held | ctlIllegal => rfl
  | ctlCommand _ _ _ hp he =>
    obtain rfl | ⟨arg, rfl | rfl⟩ := he.ctl_cases hp
    all_goals rfl

/-- The fields of STATUS from bit 5 up are zeros, FAULT and zeros, from the top. -/
theorem State.status_extract_of_five_le (s : State) {start : Nat} (len : Nat) (h : 5 ≤ start) :
    s.status.extractLsb' start len = (0#16 ++ s.fault ++ 0#3).extractLsb' (start - 2 - 1 - 1 - 1) len := by
  unfold State.status
  iterate 4 rw [BitVec.extractLsb'_append_eq_of_le (by omega)]

/-- Settles O54: each field of the concatenation `State.status` is read back at its place. -/
theorem statusFields : Obligations.StatusFields := by
  refine ⟨by decide, fun s => ⟨?state, ?busy, ?fbPend, ?fqPend, ?low, ?fault, ?high⟩⟩
  case state =>
    unfold State.status
    rw [BitVec.extractLsb'_append_eq_right]
    cases s.session <;> rfl
  case busy =>
    unfold State.status
    rw [BitVec.getLsbD_append, BitVec.getLsbD_append]
    simp [State.busy]
  case fbPend =>
    unfold State.status
    iterate 3 rw [BitVec.getLsbD_append]
    simp
  case fqPend =>
    unfold State.status
    iterate 4 rw [BitVec.getLsbD_append]
    simp
  case low => rw [s.status_extract_of_five_le 3 (by decide), BitVec.extractLsb'_append_eq_right]
  case fault =>
    rw [s.status_extract_of_five_le 8 (by decide), BitVec.extractLsb'_append_eq_of_le (by decide),
      BitVec.extractLsb'_append_eq_right]
  case high =>
    rw [s.status_extract_of_five_le 16 (by decide), BitVec.extractLsb'_append_eq_of_le (by decide),
      BitVec.extractLsb'_append_eq_left]

end Sys2Proof.Machine
end

section
/-! SUPPORT. Proof that every step from the invariant goes on and keeps it (R24, R26, R31, R33, R115): the read position of a delay in
range is finite, so the sample step answers, and each operation keeps each clause. -/

namespace Sys2Proof

/-! Finite values of bounded magnitude -/

/-- The value is finite, its magnitude at most `2 ^ k`. -/
def Fmt.Within (f : Fmt) (k : Nat) (x : FVal) : Prop := ∃ s m, x = .fin s m ∧ m ≤ 2 ^ k * f.one

theorem Fmt.Within.mono {f : Fmt} {j k : Nat} {x : FVal} (h : f.Within j x) (hjk : j ≤ k) : f.Within k x := by
  obtain ⟨s, m, hx, hm⟩ := h
  exact ⟨s, m, hx, hm.trans (Nat.mul_le_mul_right _ (Nat.pow_le_pow_right (by decide) hjk))⟩

theorem Fmt.Within.neg {f : Fmt} {k : Nat} {x : FVal} (h : f.Within k x) : f.Within k x.neg := by
  obtain ⟨s, m, rfl, hm⟩ := h
  exact ⟨!s, m, rfl, hm⟩

/-- Rounding a magnitude of at most `2 ^ k`, which is a value of the format for `k` up to 32, does not pass it. -/
theorem Fmt.within_round (f : Fmt) (s : Bool) {k num : Nat} (hk : k ≤ 32) (h : num ≤ 2 ^ k * f.one) :
    f.Within k (f.round s num 1) := by
  have hrep : f.Representable (2 ^ k * f.one) := Nat.mul_comm _ _ ▸ f.representable_one.mul_pow k
  have hmax : 2 ^ k * f.one ≤ f.maxMag :=
    (Nat.mul_le_mul_right _ (Nat.pow_le_pow_right (by decide) hk)).trans f.rateBound_le_maxMag
  obtain ⟨r, hr, hle⟩ := f.round_le s (num := num) Nat.one_pos hrep hmax (by rwa [Nat.mul_one])
  exact ⟨s, r, hr, hle⟩

/-- A sum of two such values is finite, at most twice as large. -/
theorem Fmt.Within.add {f : Fmt} {k : Nat} {x y : FVal} (hk : k < 32) (hx : f.Within k x) (hy : f.Within k y) :
    f.Within (k + 1) (f.add x y) := by
  obtain ⟨s, m, rfl, hm⟩ := hx
  obtain ⟨t, n, rfl, hn⟩ := hy
  have hsum : m + n ≤ 2 ^ (k + 1) * f.one := by rw [Nat.pow_succ, Nat.mul_right_comm]; omega
  simp only [Fmt.add]
  split
  · exact f.within_round s hk hsum
  · split
    · exact ⟨false, 0, rfl, Nat.zero_le _⟩
    · split
      · exact f.within_round s hk (by omega)
      · exact f.within_round t hk (by omega)

theorem Fmt.within_ofInt (f : Fmt) {k : Nat} {n : Int} (hk : k ≤ 32) (h : n.natAbs ≤ 2 ^ k) : f.Within k (f.ofInt n) :=
  f.within_round _ hk (Nat.mul_le_mul_right _ h)

theorem Fmt.within_kOne (f : Fmt) : f.Within 0 f.kOne :=
  ⟨false, f.one, by cases f <;> decide +kernel, by rw [Nat.pow_zero, Nat.one_mul]⟩

namespace Machine

/-! The sample step goes on (R91, R106, R115) -/

/-- A delay in range makes the read position finite: at most 2^26 in magnitude, which rounding does not pass. -/
theorem State.readPosition_within {s : State} (h : s.DelayInRange) : s.fmt.Within 26 s.readPosition := by
  obtain ⟨d, hd, hdle⟩ := h
  have hptr : s.fmt.Within 24 (s.fmt.ofInt (s.writePointer.toNat : Int)) :=
    s.fmt.within_ofInt (by decide) (by rw [Int.natAbs_natCast]; exact s.writePointer.isLt.le)
  have hdelay : s.fmt.Within 24 (s.fval s.smoothedDelaySamples) :=
    Fmt.Within.mono ⟨false, d, hd, by rwa [← maxDelay_eq]⟩ (by decide : 23 ≤ 24)
  have hdiff := hptr.add (by decide) hdelay.neg
  have hring : s.fmt.Within 25 (s.fmt.ofInt (ringSize : Int)) := s.fmt.within_ofInt (by decide) (by decide)
  unfold State.readPosition
  simp only
  split
  · exact hdiff.add (by decide) hring
  · exact hdiff.mono (by decide)

/-- RB.EVALUATE is defined at a finite position. -/
theorem Memory.rbEvaluate_isSome (m : Memory) {f : Fmt} {k : Nat} {x : FVal} (h : f.Within k x) :
    ∃ v, m.rbEvaluate f x = some v := by
  obtain ⟨s, mag, rfl, -⟩ := h
  exact ⟨_, rfl⟩

/-- A delay in range makes a sample word of every input. -/
theorem State.sampleWord_isSome {s : State} (h : s.DelayInRange) (x : Sample) : ∃ y, s.sampleWord x = some y := by
  have hpos := State.readPosition_within h
  obtain ⟨v, hv⟩ := s.rb.rbEvaluate_isSome hpos
  obtain ⟨w, hw⟩ := s.rb.rbEvaluate_isSome (hpos.add (by decide) (s.fmt.within_kOne.mono (by decide)))
  simp only [State.sampleWord, State.tap, hv, hw, Option.map_some]
  exact ⟨_, rfl⟩

/-! The loop's test (R100) -/

theorem loopSeq_between (len done : BitVec 32) : loopSeq len done ≠ .init ∧ loopSeq len done ≠ .drain := by
  unfold loopSeq
  split <;> decide

theorem lt_of_loopSeq_sample {len done : BitVec 32} (h : loopSeq len done = .sample) : done < len := by
  unfold loopSeq at h
  split at h
  · assumption
  · cases h

theorem le_of_loopSeq_respond {len done : BitVec 32} (h : loopSeq len done = .respond) : len ≤ done := by
  unfold loopSeq at h
  split at h
  · cases h
  · exact BitVec.not_lt.1 ‹_›

/-- The loop ends after the sample that makes k equal to L. -/
theorem eq_of_loopSeq_succ_respond {len done : BitVec 32} (hk : done < len)
    (h : loopSeq len (done + 1#32) = .respond) : done + 1#32 = len := by
  have hle := le_of_loopSeq_respond h
  bv_omega

/-! What a fault leaves in FAULT (R150, R155) -/

theorem State.raise_fault_ne_zero (s : State) (c : FaultCode) : (s.raise c).fault ≠ 0x00#8 := by
  rw [State.raise_fault]
  split
  · cases c <;> decide
  · assumption

theorem State.raise_fault_le {s : State} (h : s.fault ≤ 0x04#8) (c : FaultCode) : (s.raise c).fault ≤ 0x04#8 := by
  rw [State.raise_fault]
  split
  · cases c <;> decide
  · exact h

/-! What keeps the invariant -/

namespace State.Inv

variable {s : State}

theorem passTurn (h : s.Inv) : s.passTurn.Inv := { h with }

theorem takeCtl (h : s.Inv) (rest : List CmdWord) : (s.takeCtl rest).Inv := { h with }

theorem takeCmd (h : s.Inv) (rest : List CmdWord) : (s.takeCmd rest).Inv := { h with }

theorem respond (h : s.Inv) (code : BitVec 8) : (s.respond code).Inv := { h with }

theorem fillFb (h : s.Inv) (arg : Arg) : (s.fillFb arg).Inv := { h with }

theorem fillFq (h : s.Inv) (arg : Arg) : (s.fillFq arg).Inv := { h with }

theorem raise (h : s.Inv) (c : FaultCode) : (s.raise c).Inv :=
  { h with
    faultCode := State.raise_fault_le h.faultCode c
    shutdownRecorded := fun _ => s.raise_fault_ne_zero c }

theorem faultCmd (h : s.Inv) (c : FaultCode) : (s.faultCmd c).Inv := (h.raise c).respond _

theorem shutdown (h : s.Inv) : s.shutdown.Inv :=
  { h with
    faultCode := State.raise_fault_le h.faultCode .hostShutdown
    blockInSession := fun _ => Session.noConfusion
    shutdownRecorded := fun _ => s.raise_fault_ne_zero .hostShutdown
    rateInRange := Session.noConfusion
    ringFilled := Session.noConfusion
    feedbackFinite := Session.noConfusion
    delayInRange := Session.noConfusion }

theorem endSession (h : s.Inv) (hq : s.seq = .ready) : s.endSession.Inv :=
  { h with
    ringWf := Memory.empty_wf _
    blockInSession := fun hne => absurd hq hne
    shutdownRecorded := Session.noConfusion
    rateInRange := Session.noConfusion
    ringFilled := Session.noConfusion
    feedbackFinite := Session.noConfusion
    delayInRange := Session.noConfusion }

theorem powerOn (h : s.Inv) : s.powerOn.Inv where
  paramsValid := h.paramsValid
  ringWf := Memory.empty_wf _
  faultCode := show 0x00#8 ≤ 0x04#8 by decide
  seqBetween := ⟨Seq.noConfusion, Seq.noConfusion⟩
  blockInSession := fun hne => absurd rfl hne
  loopOpen := Seq.noConfusion
  loopClosed := Seq.noConfusion
  shutdownRecorded := Session.noConfusion
  rateInRange := Session.noConfusion
  ringFilled := Session.noConfusion
  feedbackFinite := Session.noConfusion
  delayInRange := Session.noConfusion

theorem startSession (h : s.Inv) {sr : BitVec 32} (hr : s.rateOk sr = true) : (s.startSession sr).Inv :=
  have ⟨hlow, hhigh⟩ : 1#32 ≤ sr ∧ sr ≤ s.params.srMax := by simpa [State.rateOk] using hr
  { h with
    ringWf := Memory.zeroFilled_wf
    faultCode := show 0x00#8 ≤ 0x04#8 by decide
    blockInSession := fun _ => Session.noConfusion
    shutdownRecorded := Session.noConfusion
    rateInRange := fun _ => ⟨hlow, hhigh⟩
    ringFilled := fun _ => rfl
    feedbackFinite := fun _ => State.initialFeedback_finite h.paramsValid
    delayInRange := fun _ => State.initialDelay_range h.paramsValid hhigh }

theorem beginBlock (h : s.Inv) (hs : s.session = .running) (len : BitVec 32) : (s.beginBlock len).Inv :=
  { h with
    seqBetween := loopSeq_between len 0#32
    blockInSession := fun _ => by simp [hs]
    loopOpen := lt_of_loopSeq_sample
    loopClosed := fun hq => (BitVec.le_zero_iff.1 (le_of_loopSeq_respond hq)).symm }

theorem endBlock (h : s.Inv) : s.endBlock.Inv :=
  { h with
    seqBetween := ⟨Seq.noConfusion, Seq.noConfusion⟩
    blockInSession := fun hne => absurd rfl hne
    loopOpen := Seq.noConfusion
    loopClosed := Seq.noConfusion }

/-- A block's step finds a session: it is neither IDLE nor, where the Engine moves, TERMINATED. -/
theorem running_of_block (h : s.Inv) (hq : s.seq ≠ .ready) (hs : s.session ≠ .terminated) : s.session = .running := by
  cases hsess : s.session with
  | idle => exact absurd hsess (h.blockInSession hq)
  | running => rfl
  | terminated => exact absurd hsess hs

theorem smoothed (h : s.Inv) : s.smoothed.Inv :=
  { h with
    feedbackFinite := fun hs => State.smoothed_feedbackFinite (s := s) (h.feedbackFinite hs)
    delayInRange := fun hs => State.smoothed_delayInRange h.paramsValid (h.rateInRange hs).2 (h.delayInRange hs) }

theorem writeback (h : s.Inv) (y : Sample) : (s.writeback y).Inv :=
  { h with ringWf := Memory.rbWrite_wf h.ringWf _ y }

theorem advance (h : s.Inv) : s.advance.Inv := { h with }

theorem transfer (h : s.Inv) (rest : List Sample) (y : Sample) : (s.transfer rest y).Inv := { h with }

/-- The count keeps the invariant in a session's block with samples left to do. -/
theorem countSample (h : s.Inv) (hs : s.session = .running) (hk : s.blockDone < s.blockLen) : s.countSample.Inv :=
  { h with
    seqBetween := loopSeq_between _ _
    blockInSession := fun _ => by simp [hs]
    loopOpen := lt_of_loopSeq_sample
    loopClosed := eq_of_loopSeq_succ_respond hk }

end State.Inv

/-- Every command keeps the invariant. -/
theorem ExecEffect.inv {i : Instr} {s t : State} (he : ExecEffect i s t) (h : s.Inv) : t.Inv := by
  cases he with
  | ctlNotAccepted | cmdNotAccepted => exact h
  | feedback => exact h.fillFb _
  | frequency => exact h.fillFq _
  | wrongState | initFails => exact h.faultCmd _
  | initStarts _ _ hr => exact (h.startSession hr).respond _
  | blockBegins _ hs => exact h.beginBlock hs _
  | sessionEnds ha => exact (h.endSession (ready_of_acceptsCmd ha)).respond _

/-- Every turn keeps the invariant. -/
theorem StepEffect.inv {u : Turn} {s t : State} (he : StepEffect u s t) (h : s.Inv) : t.Inv := by
  cases he with
  | held => exact h
  | reset => exact h.powerOn
  | shutdown => exact h.shutdown
  | ctlCommand _ _ _ _ he => exact he.inv (h.takeCtl _)
  | ctlIllegal => exact (h.takeCtl _).raise _
  | cmdCommand _ _ _ _ he => exact he.inv (h.takeCmd _)
  | cmdIllegal => exact (h.takeCmd _).faultCmd _
  | drained _ hq => exact absurd hq h.seqBetween.2
  | sampled hs hq hk =>
    have hrun := h.running_of_block (by rw [hq]; decide) hs
    exact (((h.smoothed.writeback _).advance).transfer _ _).countSample (by simpa using hrun) (by simpa using hk)
  | finished => exact h.endBlock

/-- A session's sample step never stops: its delay is in range. -/
theorem State.Inv.sampleStep_goesOn {s : State} (h : s.Inv) (hs : s.session = .running) :
    ∃ t, s.sampleStep = .next t := by
  cases hx : s.sin with
  | nil => exact ⟨s, sampleStep_held hx⟩
  | cons x rest =>
    obtain ⟨y, hy⟩ := State.sampleWord_isSome (h.smoothed.delayInRange hs) x
    exact ⟨_, sampleStep_eq_next hx hy⟩

theorem State.Inv.engineStep_goesOn {s : State} (h : s.Inv) : ∃ t, s.engineStep = .next t := by
  obtain ⟨hinit, -⟩ := h.seqBetween
  unfold State.engineStep
  split
  · exact ⟨_, rfl⟩
  · rename_i hs
    split
    · exact acceptStep_total s
    · contradiction
    · exact ⟨_, rfl⟩
    · rename_i hq
      split
      · exact h.sampleStep_goesOn (h.running_of_block (by rw [hq]; decide) hs)
      · exact ⟨_, rfl⟩
    · exact ⟨_, rfl⟩

theorem State.Inv.step_goesOn {s : State} (h : s.Inv) : ∃ t, step s = .next t := by
  unfold step
  cases s.turn with
  | engine => exact h.passTurn.engineStep_goesOn
  | control => exact controlStep_total _
  | shutdown => exact ⟨_, rfl⟩
  | reset => exact ⟨_, rfl⟩

/-- Settles O39: a block's sample step finds its read position finite, and every effect a step can have keeps the invariant. -/
theorem everyStepGoesOnAndKeepsInv : Obligations.EveryStepGoesOnAndKeepsInv := by
  intro s h
  obtain ⟨t, ht⟩ := h.step_goesOn
  exact ⟨t, ht, (step_effect ht).inv h.passTurn⟩

end Machine

end Sys2Proof
end

section
/-! SUPPORT. Proofs about the ring buffer's words (R52, R53) and about the mailbox as the source's message queue (R60, R66, R101): a slot keeps
of its messages the last one, which is all the source's drain keeps of them. -/

namespace Sys2Proof.Machine

/-! The ring buffer -/

/-- Two accesses reach the same word exactly where their indices agree mod N. -/
theorem ringIndex_eq_iff {i j : Int} : ringIndex i = ringIndex j ↔ i % (ringSize : Int) = j % (ringSize : Int) := by
  have hi : 0 ≤ i % (ringSize : Int) := Int.emod_nonneg i (by decide)
  have hj : 0 ≤ j % (ringSize : Int) := Int.emod_nonneg j (by decide)
  unfold ringIndex
  omega

/-- Settles O27: the write reaches the word at `ringIndex i`, and the canonical form keeps every other word. -/
theorem ringReadAfterWrite : Obligations.RingReadAfterWrite := by
  intro m i j v hwf
  simp only [Memory.memRead_memWrite hwf, ringIndex_eq_iff]

/-! The source's drain -/

theorem fifoDrain_append (ms ns : List Message) (targets : FWord × FWord) :
    fifoDrain (ms ++ ns) targets = fifoDrain ns (fifoDrain ms targets) := by
  induction ms generalizing targets with
  | nil => rfl
  | cons m rest ih => cases m <;> exact ih _

/-- The source's drain of the messages a mailbox stands for is the slots' own drain. -/
theorem State.fifoDrain_pendingMessages (s : State) (targets : FWord × FWord) :
    fifoDrain s.pendingMessages targets = (s.mbxFb.drainInto targets.1, s.mbxFq.drainInto targets.2) := by
  rw [State.pendingMessages, fifoDrain_append]
  cases hfb : s.mbxFb.pending <;> cases hfq : s.mbxFq.pending <;> simp [Slot.drainInto, fifoDrain, hfb, hfq]

/-- DRAIN leaves the targets the source's drain of the pending messages leaves. -/
theorem State.drain_targets_eq_fifoDrain (s : State) :
    (s.drain.feedbackTarget, s.drain.frequencyTarget) =
      fifoDrain s.pendingMessages (s.feedbackTarget, s.frequencyTarget) := by
  rw [State.fifoDrain_pendingMessages, State.drain_feedbackTarget, State.drain_frequencyTarget]

/-! Messages accepted -/

/-- The state after a message is accepted. -/
def State.deliver (s : State) (fb : Bool) (arg : Arg) : State := if fb then s.fillFb arg else s.fillFq arg

theorem exec_messageCommand {s : State} (hs : s.session ≠ .terminated) (fb : Bool) (arg : Arg) :
    exec (messageCommand fb arg) s = .next (s.deliver fb arg) := by
  have ha : s.acceptsCtl = true := bne_iff_ne.2 hs
  cases fb <;> exact if_pos ha

@[simp] theorem State.deliver_session (s : State) (fb : Bool) (arg : Arg) : (s.deliver fb arg).session = s.session := by
  cases fb <;> rfl

@[simp] theorem State.deliver_feedbackTarget (s : State) (fb : Bool) (arg : Arg) :
    (s.deliver fb arg).feedbackTarget = s.feedbackTarget := by
  cases fb <;> rfl

@[simp] theorem State.deliver_frequencyTarget (s : State) (fb : Bool) (arg : Arg) :
    (s.deliver fb arg).frequencyTarget = s.frequencyTarget := by
  cases fb <;> rfl

/-- A message put in its slot drains as that message put behind the pending ones: it replaces the one it would be applied over. -/
theorem State.fifoDrain_deliver (s : State) (fb : Bool) (arg : Arg) (targets : FWord × FWord) :
    fifoDrain (s.deliver fb arg).pendingMessages targets =
      fifoDrain (s.pendingMessages ++ [s.messageOf fb arg]) targets := by
  rw [fifoDrain_append, State.fifoDrain_pendingMessages, State.fifoDrain_pendingMessages]
  cases fb <;> rfl

/-- Outside TERMINATED every message is accepted, no target moves, and the mailbox drains as the messages pending before with the
accepted ones behind them. -/
theorem State.sendAll_refines_fifo (msgs : List (Bool × Arg)) {s : State} (hs : s.session ≠ .terminated)
    (before : List Message) :
    ∃ (t : State) (sent : List Message),
      State.sendAll msgs s before = some (t, before ++ sent) ∧ sent.length = msgs.length ∧
      t.feedbackTarget = s.feedbackTarget ∧ t.frequencyTarget = s.frequencyTarget ∧
      ∀ targets, fifoDrain t.pendingMessages targets = fifoDrain (s.pendingMessages ++ sent) targets := by
  induction msgs generalizing s before with
  | nil => exact ⟨s, [], by simp [State.sendAll], rfl, rfl, rfl, by simp⟩
  | cons msg rest ih =>
    obtain ⟨fb, arg⟩ := msg
    have hs' : (s.deliver fb arg).session ≠ .terminated := by simpa using hs
    obtain ⟨t, sent, hsend, hlen, hfb, hfq, hdrain⟩ := ih hs' (before ++ [s.messageOf fb arg])
    refine ⟨t, s.messageOf fb arg :: sent, ?_, by simp [hlen], by simpa using hfb, by simpa using hfq, fun targets => ?_⟩
    · simpa [State.sendAll, exec_messageCommand hs] using hsend
    · calc fifoDrain t.pendingMessages targets
          = fifoDrain sent (fifoDrain (s.deliver fb arg).pendingMessages targets) := by rw [hdrain, fifoDrain_append]
        _ = fifoDrain (s.pendingMessages ++ s.messageOf fb arg :: sent) targets := by
          rw [State.fifoDrain_deliver, ← fifoDrain_append, List.append_assoc, List.singleton_append]

/-- Settles O12, by induction on the commands: the mailbox and the queue drain alike after each of them. -/
theorem mailboxRefinesTheFifo : Obligations.MailboxRefinesTheFifo := by
  intro msgs s hs
  obtain ⟨t, sent, hsend, hlen, hfb, hfq, hdrain⟩ := State.sendAll_refines_fifo msgs hs []
  refine ⟨t, sent, hsend, hlen, hfb, hfq, ?_⟩
  rw [State.drain_targets_eq_fifoDrain, hdrain, hfb, hfq]

end Sys2Proof.Machine
end

section
/-! SUPPORT. Proofs about the decoder and the encoder (R73 to R78): a command word is its OP and its ARG, each form of ARG is legal exactly
where it is some operand's encoding, and the illegal words are the ones no command encodes. -/

namespace Sys2Proof

/-! The fields of a word (R73) -/

theorem CmdWord.toNat_op (w : CmdWord) : w.op.toNat = w.toNat / 2 ^ 64 := by
  have hw := w.isLt
  simp only [CmdWord.op, BitVec.extractLsb'_toNat, Nat.shiftRight_eq_div_pow]
  omega

theorem CmdWord.toNat_arg (w : CmdWord) : w.arg.toNat = w.toNat % 2 ^ 64 := by
  simp only [CmdWord.arg, BitVec.extractLsb'_toNat, Nat.shiftRight_zero]

/-- A word is its OP followed by its ARG. -/
theorem CmdWord.op_append_arg (w : CmdWord) : w.op ++ w.arg = w := by
  apply BitVec.eq_of_toNat_eq
  rw [BitVec.toNat_append, ← Nat.shiftLeft_add_eq_or_of_lt w.arg.isLt, Nat.shiftLeft_eq, w.toNat_op, w.toNat_arg]
  exact Nat.div_add_mod' _ _

@[simp] theorem encode_op (i : Instr) : CmdWord.op (encode i) = i.opcode := BitVec.extractLsb'_append_eq_left

@[simp] theorem encode_arg (i : Instr) : CmdWord.arg (encode i) = i.argument := BitVec.extractLsb'_append_eq_right

/-- A command's encoding is the word with its OP and its ARG. -/
theorem eq_encode_iff {w : CmdWord} {i : Instr} : w = encode i ↔ w.op = i.opcode ∧ w.arg = i.argument := by
  refine ⟨?_, fun ⟨hop, harg⟩ => ?_⟩
  · rintro rfl
    exact ⟨encode_op i, encode_arg i⟩
  · rw [encode, ← hop, ← harg, w.op_append_arg]

/-! The forms of ARG (R74) -/

theorem Arg.toNat_high (a : Arg) : a.high.toNat = a.toNat / 2 ^ 32 := by
  have ha := a.isLt
  simp only [Arg.high, BitVec.extractLsb'_toNat, Nat.shiftRight_eq_div_pow]
  omega

/-- ARG is a zero-extended integer exactly when its high half is zero and its low half is that integer (R74 b). -/
theorem Arg.eq_setWidth_iff {a : Arg} {n : BitVec 32} : a = n.setWidth 64 ↔ a.high = 0#32 ∧ a.low = n := by
  have ha := a.isLt
  have hn := n.isLt
  simp only [BitVec.toNat_eq, Arg.toNat_high, Arg.low, BitVec.extractLsb'_toNat, BitVec.toNat_setWidth, BitVec.toNat_ofNat,
    Nat.shiftRight_zero]
  omega

theorem decodeFloatForm_eq_instr {p : Port} {mk : Arg → Instr} {a : Arg} {i : Instr} :
    decodeFloatForm p mk a = .instr i ↔ p = .ctl ∧ mk a = i := by
  unfold decodeFloatForm
  split <;> simp [*]

theorem decodeIntForm_eq_instr {p : Port} {mk : BitVec 32 → Instr} {a : Arg} {i : Instr} :
    decodeIntForm p mk a = .instr i ↔ p = .cmd ∧ ∃ n : BitVec 32, a = n.setWidth 64 ∧ mk n = i := by
  simp only [Arg.eq_setWidth_iff]
  unfold decodeIntForm
  split
  · split <;> simp [*]
  · simp [*]

theorem decodeNoArgForm_eq_instr {p : Port} {j : Instr} {a : Arg} {i : Instr} :
    decodeNoArgForm p j a = .instr i ↔ p = .cmd ∧ a = 0#64 ∧ j = i := by
  unfold decodeNoArgForm
  split
  · split <;> simp [*]
  · simp [*]

/-! Decoding (R78) -/

/-- A command's encoding decodes, on the command's port, to the command. -/
theorem decode_encode (i : Instr) : decode i.port (encode i) = .instr i := by
  unfold decode
  simp only [encode_op, encode_arg]
  cases i with
  | fbk | frq => exact decodeFloatForm_eq_instr.2 ⟨rfl, rfl⟩
  | init | proc => exact decodeIntForm_eq_instr.2 ⟨rfl, _, rfl, rfl⟩
  | teardown => exact decodeNoArgForm_eq_instr.2 ⟨rfl, rfl, rfl⟩

/-- A word that decodes to a command is that command's encoding. -/
theorem eq_encode_of_decode {p : Port} {w : CmdWord} {i : Instr} (h : decode p w = .instr i) : w = encode i := by
  rw [eq_encode_iff]
  unfold decode at h
  simp only at h
  iterate 2
    split at h
    case isTrue hop =>
      obtain ⟨-, rfl⟩ := decodeFloatForm_eq_instr.1 h
      exact ⟨hop, rfl⟩
  iterate 2
    split at h
    case isTrue hop =>
      obtain ⟨-, n, hn, rfl⟩ := decodeIntForm_eq_instr.1 h
      exact ⟨hop, hn⟩
  split at h
  case isTrue hop =>
    obtain ⟨-, hz, rfl⟩ := decodeNoArgForm_eq_instr.1 h
    exact ⟨hop, hz⟩
  case isFalse => cases h

/-- The decoder reads a command exactly from its encoding, on the command's port. -/
theorem decode_eq_instr_iff {p : Port} {w : CmdWord} {i : Instr} :
    decode p w = .instr i ↔ w = encode i ∧ i.wellFormedOn p = true := by
  constructor
  · intro h
    exact ⟨eq_encode_of_decode h, beq_iff_eq.2 (Machine.decode_port h)⟩
  · rintro ⟨rfl, hp⟩
    rw [← beq_iff_eq.1 hp]
    exact decode_encode i

/-- Settles O1: `decode_encode` one way, `eq_encode_of_decode` and `decode_port` the other. -/
theorem decodeExactlyTheEncodings : Obligations.DecodeExactlyTheEncodings := fun _ _ _ => decode_eq_instr_iff

/-- A word is illegal exactly when it is no encoding of a command legal on the port. -/
theorem exists_decode_illegal_iff {p : Port} {w : CmdWord} :
    (∃ why, decode p w = .illegal why) ↔ ¬ ∃ i, w = encode i ∧ i.wellFormedOn p = true := by
  simp only [← decode_eq_instr_iff]
  cases decode p w <;> simp

/-- The encodings of the commands legal on a port, by OP and ARG (R74, R75, R76). -/
theorem exists_encode_iff {p : Port} {w : CmdWord} :
    (∃ i, w = encode i ∧ i.wellFormedOn p = true) ↔
      (p = .ctl ∧ (w.op = 0x01#8 ∨ w.op = 0x02#8)) ∨
      (p = .cmd ∧ (w.op = 0x10#8 ∨ w.op = 0x11#8) ∧ w.arg.high = 0#32) ∨
      (p = .cmd ∧ w.op = 0x12#8 ∧ w.arg = 0#64) := by
  simp only [eq_encode_iff]
  constructor
  · rintro ⟨i, ⟨hop, harg⟩, hp⟩
    obtain rfl := beq_iff_eq.1 hp
    cases i with
    | fbk => exact .inl ⟨rfl, .inl hop⟩
    | frq => exact .inl ⟨rfl, .inr hop⟩
    | init => exact .inr (.inl ⟨rfl, .inl hop, (Arg.eq_setWidth_iff.1 harg).1⟩)
    | proc => exact .inr (.inl ⟨rfl, .inr hop, (Arg.eq_setWidth_iff.1 harg).1⟩)
    | teardown => exact .inr (.inr ⟨rfl, hop, harg⟩)
  · rintro (⟨rfl, hop | hop⟩ | ⟨rfl, hop | hop, hz⟩ | ⟨rfl, hop, hz⟩)
    · exact ⟨.fbk w.arg, ⟨hop, rfl⟩, rfl⟩
    · exact ⟨.frq w.arg, ⟨hop, rfl⟩, rfl⟩
    · exact ⟨.init w.arg.low, ⟨hop, Arg.eq_setWidth_iff.2 ⟨hz, rfl⟩⟩, rfl⟩
    · exact ⟨.proc w.arg.low, ⟨hop, Arg.eq_setWidth_iff.2 ⟨hz, rfl⟩⟩, rfl⟩
    · exact ⟨.teardown, ⟨hop, hz⟩, rfl⟩

/-- Settles O2: the words no legal command encodes, with their fields read as numbers. -/
theorem illegalWordsByTheirBits : Obligations.IllegalWordsByTheirBits := by
  intro p w
  rw [exists_decode_illegal_iff, exists_encode_iff]
  simp only [BitVec.toNat_eq, Arg.toNat_high, CmdWord.toNat_op, CmdWord.toNat_arg, BitVec.toNat_ofNat]
  norm_num

/-- Settles O3: each of R83's words is the encoding of a command legal on its port. -/
theorem specWordsDecode : Obligations.SpecWordsDecode := by
  unfold Obligations.SpecWordsDecode
  simp only [decode_eq_instr_iff]
  decide

/-- Settles O4: R83's lines are evaluated, and a line PARAMS is offered by its definition. -/
theorem assemblerExamples : Obligations.AssemblerExamples := by
  refine ⟨?_, ?_, ?_, ?_, ?_, ?_, fun _ _ _ => rfl⟩ <;> decide +kernel

end Sys2Proof
end

section
/-! SUPPORT. Proof about the operand of a float command (R74 a): unpacking the pattern of any value of a format gives the value back, so the
operand's value is the converted one. -/

namespace Sys2Proof

/-- A pattern made of a sign and a number of the bits below it: its fields are the sign and the number's own. -/
theorem Fmt.unpack_ofNat (f : Fmt) (neg : Bool) {m : Nat} (hm : m < 2 ^ f.magBits) :
    f.unpack (BitVec.ofNat 64 (f.signBits neg + m)) =
      if m / 2 ^ f.fracBits = f.expMax then (if m % 2 ^ f.fracBits = 0 then .inf neg else .nan)
      else .fin neg (f.magOfFields (m / 2 ^ f.fracBits) (m % 2 ^ f.fracBits)) := by
  have hnat : (BitVec.ofNat 64 (f.signBits neg + m)).toNat = f.signBits neg + m := by
    have hbits : 2 ^ f.magBits * 2 ≤ 2 ^ 64 := by
      rw [← Nat.pow_succ]
      exact Nat.pow_le_pow_right (by decide) f.bits_le
    have hsign := f.signBits_le neg
    rw [BitVec.toNat_ofNat, Nat.mod_eq_of_lt (by omega)]
  have hsign : f.signBits neg = neg.toNat * 2 ^ f.magBits := by cases neg <;> simp [Fmt.signBits]
  have hneg : ((f.signBits neg + m) / 2 ^ f.magBits % 2 == 1) = neg := by
    rw [hsign, Nat.mul_comm, Nat.mul_add_div (Nat.two_pow_pos _), Nat.div_eq_of_lt hm]
    cases neg <;> rfl
  have hfields : f.signBits neg + m = 2 ^ f.fracBits * (neg.toNat * 2 ^ f.expBits) + m := by
    rw [hsign, f.two_pow_magBits]
    ring
  have hexp : (f.signBits neg + m) / 2 ^ f.fracBits % 2 ^ f.expBits = m / 2 ^ f.fracBits := by
    rw [hfields, Nat.mul_add_div (Nat.two_pow_pos _), Nat.mul_add_mod_self_right, Nat.mod_eq_of_lt]
    exact Nat.div_lt_of_lt_mul (by rwa [Nat.mul_comm, ← f.two_pow_magBits])
  have hfrac : (f.signBits neg + m) % 2 ^ f.fracBits = m % 2 ^ f.fracBits := by rw [hfields, Nat.mul_add_mod]
  simp only [Fmt.unpack, hnat, hneg, hexp, hfrac]

/-- A pattern with an exponent field of all ones is an infinity or, with a nonzero fraction, a NaN. -/
theorem Fmt.unpack_expMax (f : Fmt) (neg : Bool) {frac : Nat} (h : frac < 2 ^ f.fracBits) :
    f.unpack (BitVec.ofNat 64 (f.signBits neg + f.expMax * 2 ^ f.fracBits + frac)) =
      if frac = 0 then .inf neg else .nan := by
  have hexp : (f.expMax * 2 ^ f.fracBits + frac) / 2 ^ f.fracBits = f.expMax := by
    rw [Nat.mul_comm, Nat.mul_add_div (Nat.two_pow_pos _), Nat.div_eq_of_lt h, Nat.add_zero]
  rw [Nat.add_assoc, f.unpack_ofNat neg (f.expMax_mul_add_lt h), if_pos hexp, Nat.mul_add_mod_of_lt h]

/-- Unpacking the pattern of a value of the format gives it back; a NaN's free bits still make a NaN. -/
theorem Fmt.unpack_pack (f : Fmt) (raw : BitVec 64) {x : FVal} (hx : f.IsValue x) : f.unpack (f.pack raw x) = x := by
  cases x with
  | nan =>
    have hone : 1 < 2 ^ f.fracBits := Nat.one_lt_two_pow f.fracBits_pos.ne'
    unfold Fmt.pack Fmt.nanBits
    simp only
    split
    · exact f.unpack_expMax _ hone
    · rename_i hfrac
      rw [f.unpack_expMax _ (Nat.mod_lt _ (Nat.two_pow_pos _)), if_neg hfrac]
  | inf neg => exact f.unpack_expMax neg (Nat.two_pow_pos _)
  | fin neg mag => exact f.unpack_pack_fin raw hx

namespace Machine

/-- Settles O11: the operand is packed from a value of binary32, so reading it back gives that value. -/
theorem floatOperandRounds : Obligations.FloatOperandRounds := by
  intro s arg
  constructor
  · intro h
    simp only [State.floatOperand, h, toArith]
  · intro h
    have hval := Fmt.isValue_convert .binary64 .binary32 (Fmt.isValue_unpack .binary64 arg)
    simp only [State.fval, State.floatOperand, h, toArith, Fmt.unpack_pack _ _ hval]
    cases Fmt.unpack .binary64 arg <;> simp [Fmt.convert]

end Machine

end Sys2Proof
end

section
/-! SUPPORT. Proofs about the step of an accepted word (R71, R78, R132), commands a port does not accept (R143), and the words a step sends
on RSP (R79, R111, R157). -/

namespace Sys2Proof.Machine

/-! Accepted words (R71, R78) -/

theorem runWord_of_decode {p : Port} {w : CmdWord} {i : Instr} (s : State) (h : decode p w = .instr i) :
    s.runWord p w = exec i s := by
  simp only [State.runWord, h]

/-- Settles O5: the READY Engine's turn accepts the word and runs it. -/
theorem stepRunsAcceptedCmdWord : Obligations.StepRunsAcceptedCmdWord := by
  intro s w rest i hturn hseq hlive hcmd hdec
  have haccepts : s.passTurn.acceptsCmd = true := by simp [State.acceptsCmd, hseq, hlive]
  calc step s = s.passTurn.engineStep := by rw [step, hturn]; rfl
    _ = s.passTurn.acceptStep := engineStep_of_ready hlive hseq
    _ = (s.passTurn.takeCmd rest).runWord .cmd w := acceptStep_accepts hcmd haccepts
    _ = exec i { s.passTurn with cmd := rest } := runWord_of_decode _ hdec

/-- Settles O6: the Control agent's turn accepts the word and runs it. -/
theorem stepRunsAcceptedCtlWord : Obligations.StepRunsAcceptedCtlWord := by
  intro s w rest i hturn hlive hctl hdec
  calc step s = s.passTurn.controlStep := by rw [step, hturn]; rfl
    _ = (s.passTurn.takeCtl rest).runWord .ctl w := controlStep_accepts hctl (bne_iff_ne.2 hlive)
    _ = exec i { s.passTurn with ctl := rest } := runWord_of_decode _ hdec

/-- Settles O8: in each of these states the command's port does not accept it. -/
theorem commandsNotAcceptedChangeNothing : Obligations.CommandsNotAcceptedChangeNothing := by
  intro i s h
  apply exec_of_effect
  cases hp : i.port with
  | ctl =>
    have hterm : s.session = .terminated := h.resolve_right fun ⟨hcmd, _⟩ => by simp [hp] at hcmd
    exact .ctlNotAccepted hp (by simp [State.acceptsCtl, hterm])
  | cmd =>
    refine .cmdNotAccepted hp ?_
    rcases h with hterm | ⟨-, hseq⟩
    · simp [State.acceptsCmd, hterm]
    · simp [State.acceptsCmd, hseq]

/-! Responses (R79, R111, R157) -/

/-- RSP is as it was, or has one more word: OK, ILLEGAL_CMD, ILLEGAL_STATE or INIT_FAIL. -/
def AnswersAtMostOnce (s t : State) : Prop :=
  t.rsp = s.rsp ∨ ∃ c ∈ [0x00000000#32, 0x00000081#32, 0x00000082#32, 0x00000083#32], t.rsp = s.rsp ++ [c]

/-- Every command answers at most once. -/
theorem ExecEffect.answersAtMostOnce {i : Instr} {s t : State} (he : ExecEffect i s t) : AnswersAtMostOnce s t := by
  cases he with
  | ctlNotAccepted | cmdNotAccepted | feedback | frequency | blockBegins => exact .inl rfl
  | wrongState | initFails | initStarts | sessionEnds => exact .inr ⟨_, by decide, rfl⟩

/-- Every turn answers at most once. -/
theorem StepEffect.answersAtMostOnce {u : Turn} {s t : State} (he : StepEffect u s t) : AnswersAtMostOnce s t := by
  cases he with
  | held | reset | shutdown | ctlIllegal | drained => exact .inl rfl
  | sampled => exact .inl (by simp)
  | ctlCommand _ _ _ _ he | cmdCommand _ _ _ _ he => exact he.answersAtMostOnce
  | cmdIllegal | finished => exact .inr ⟨_, by decide, rfl⟩

/-- Settles O44: the responses of a step are those its effects send. -/
theorem responsesAreTheCodes : Obligations.ResponsesAreTheCodes :=
  fun _ _ h => (step_effect h).answersAtMostOnce

end Sys2Proof.Machine
end

section
/-! SUPPORT. Proofs about the ring buffer's interpolation (R91 to R94) and its history (R95): a position splits exactly into its whole part
and its fraction, and each step of a session either leaves RB and writePointer or puts one sample in front. -/

namespace Sys2Proof

/-! Exact operations on finite values (R8) -/

theorem Fmt.kOne_eq (f : Fmt) : f.kOne = .fin false f.one := by cases f <;> decide +kernel

theorem Fmt.isValue_one (f : Fmt) : f.IsValue (.fin false f.one) :=
  ⟨f.representable_one, (Nat.le_mul_of_pos_left _ (by decide)).trans f.rateBound_le_maxMag⟩

/-- A finite value of the format is its own rounding. -/
theorem Fmt.round_of_isValue (f : Fmt) {s : Bool} {m : Nat} (h : f.IsValue (.fin s m)) : f.round s m 1 = .fin s m :=
  f.round_exact s Nat.one_pos h.1 h.2 (Nat.mul_one m).symm

/-- A difference that is a value of the format is exact. -/
theorem Fmt.sub_fin (f : Fmt) {m n : Nat} (hle : n ≤ m) (h : f.IsValue (.fin false (m - n))) :
    f.sub (.fin false m) (.fin false n) = .fin false (m - n) := by
  rcases hle.eq_or_lt with rfl | hlt
  · simp [Fmt.sub, FVal.neg, Fmt.add]
  · simp [Fmt.sub, FVal.neg, Fmt.add, hlt, hlt.ne', f.round_of_isValue h]

/-- One is neutral: the product is the value itself, a zero's sign included. -/
theorem Fmt.one_mul (f : Fmt) {x : FVal} (hx : f.IsValue x) : f.mul (.fin false f.one) x = x := by
  cases x with
  | nan => rfl
  | inf s => simp [Fmt.mul, f.one_pos.ne']
  | fin s m => simp [Fmt.mul, f.round_exact s f.one_pos hx.1 hx.2 (Nat.mul_comm _ _)]

theorem Fmt.zero_mul_fin (f : Fmt) (t : Bool) (n : Nat) : f.mul (.fin false 0) (.fin t n) = .fin t 0 := by
  simp [Fmt.mul, f.round_exact t f.one_pos f.representable_zero (Nat.zero_le _)]

/-- Adding a zero of either sign gives the value back; two zeros give a zero, negative only when both are. -/
theorem Fmt.add_zero (f : Fmt) {s : Bool} {k : Nat} (t : Bool) (h : f.IsValue (.fin s k)) :
    f.add (.fin s k) (.fin t 0) = .fin (if k = 0 then s && t else s) k := by
  have hround := f.round_of_isValue h
  by_cases hst : s = t
  · subst hst
    simp [Fmt.add, hround]
  · rcases Nat.eq_zero_or_pos k with rfl | hk
    · have hand : (s && t) = false := by cases s <;> cases t <;> simp at hst ⊢
      simp [Fmt.add, hst, hand]
    · simp [Fmt.add, hst, hk, hk.ne', hround]

/-- An index of the ring buffer is exact in either format. -/
theorem Fmt.ofInt_ringPosition (f : Fmt) {p : Nat} (hp : p < ringSize) : f.ofInt (p : Int) = .fin false (p * f.one) := by
  have hprec : ringSize ≤ 2 ^ f.precision := by cases f <;> decide
  have hmax : p * f.one ≤ f.maxMag :=
    (Nat.mul_le_mul_right _ (hp.le.trans (by decide))).trans f.rateBound_le_maxMag
  have hval : f.IsValue (.fin false (p * f.one)) := ⟨⟨p, f.unitLog, hp.trans_le hprec, rfl⟩, hmax⟩
  rw [Fmt.ofInt, Int.natAbs_natCast, decide_eq_false (by omega)]
  exact f.round_of_isValue hval

/-- The magnitude of 0.5. -/
def Fmt.half (f : Fmt) : Nat := 2 ^ (f.unitLog - 1)

theorem Fmt.half_pos (f : Fmt) : 0 < f.half := Nat.two_pow_pos _

theorem Fmt.one_eq_two_mul_half (f : Fmt) : f.one = 2 * f.half := by
  have hlog : 0 < f.unitLog := by cases f <;> decide
  rw [Fmt.half, Nat.mul_comm, Nat.two_pow_pred_mul_two hlog, Fmt.one]

theorem Fmt.kHalf_eq (f : Fmt) : f.kHalf = .fin false f.half := by cases f <;> decide +kernel

/-- A number of halves below 2^33 is a binary64 value. -/
theorem Fmt.isValue_halves {j : Nat} (hj : j < 2 ^ 33) : Fmt.IsValue .binary64 (.fin false (j * Fmt.half .binary64)) := by
  have hbound : j * Fmt.half .binary64 ≤ 2 ^ 32 * Fmt.one .binary64 := by
    rw [Fmt.one_eq_two_mul_half, ← Nat.mul_assoc]
    exact Nat.mul_le_mul_right _ (by omega)
  exact ⟨⟨j, _, hj.trans (by decide), rfl⟩, hbound.trans (Fmt.rateBound_le_maxMag .binary64)⟩

theorem Fmt.isValue_widen (f : Fmt) (w : Sample) : f.IsValue (f.widen w) :=
  Fmt.isValue_convert .binary32 f (Fmt.isValue_unpack _ _)

namespace Machine

/-! RB.EVALUATE (R91 to R94) -/

/-- Settles O28: the words at floor(pos) and floor(pos) + 1 are all the interpolation reads. -/
theorem evaluateReadsTwoWords : Obligations.EvaluateReadsTwoWords := by
  intro f m m' neg mag h0 h1
  simp only [Memory.rbEvaluate, Memory.interpolate, h0, h1]

/-- At the position `p + r`, with `r` and `1 - r` values of the format, the interpolation's weights are exactly those two. -/
theorem Memory.rbEvaluate_of_fraction (m : Memory) {f : Fmt} {p r : Nat} (hp : p < ringSize) (hr : r < f.one)
    (hfrac : f.IsValue (.fin false r)) (hrest : f.IsValue (.fin false (f.one - r))) :
    m.rbEvaluate f (.fin false (p * f.one + r)) =
      some (f.add (f.mul (.fin false (f.one - r)) (f.widen (m.memRead p)))
        (f.mul (.fin false r) (f.widen (m.memRead (p + 1))))) := by
  have hfloor : f.floorFin false (p * f.one + r) = p := by
    simp [Fmt.floorFin, Nat.mul_comm p, Nat.mul_add_div f.one_pos, Nat.div_eq_of_lt hr]
  have hsub : f.sub (.fin false (p * f.one + r)) (.fin false (p * f.one)) = .fin false r := by
    rw [f.sub_fin (Nat.le_add_right _ _) (by rwa [Nat.add_sub_cancel_left]), Nat.add_sub_cancel_left]
  simp only [Memory.rbEvaluate, Memory.interpolate, hfloor, f.ofInt_ringPosition hp, hsub, f.kOne_eq, f.sub_fin hr.le hrest]

/-- At an integer position the weights are 1 and +0.0. -/
theorem Memory.rbEvaluate_integer (m : Memory) (f : Fmt) {p : Nat} (hp : p < ringSize) :
    m.rbEvaluate f (f.ofInt (p : Int)) =
      some (f.add (f.widen (m.memRead p)) (f.mul (.fin false 0) (f.widen (m.memRead (p + 1))))) := by
  have h := m.rbEvaluate_of_fraction hp f.one_pos (f.isValue_zero false) f.isValue_one
  rwa [Nat.add_zero, ← f.ofInt_ringPosition hp, Nat.sub_zero, f.one_mul (f.isValue_widen _)] at h

/-- Settles O29: the word at `p` comes through unscaled, and the next one as a zero of its sign, or a NaN where it is not finite. -/
theorem evaluateExactReadback : Obligations.EvaluateExactReadback := by
  intro f m p hp
  have hb0 := f.isValue_widen (m.memRead p)
  simp only [m.rbEvaluate_integer f hp]
  generalize f.widen (m.memRead p) = b0 at hb0 ⊢
  cases f.widen (m.memRead (p + 1)) with
  | nan | inf => cases b0 <;> rfl
  | fin t n =>
    simp only [f.zero_mul_fin]
    refine ⟨?number, fun s h => by rw [h]; rfl, fun h => by rw [h]; rfl⟩
    rintro s k rfl
    rw [f.add_zero t hb0]

/-- Settles O30: the position is exact, and both weights are 0.5. -/
theorem evaluateMidpoint : Obligations.EvaluateMidpoint := by
  intro m p hp f _ _
  have hone : f.one = 2 * f.half := f.one_eq_two_mul_half
  have hrest : f.one - f.half = f.half := by omega
  have hhalf : f.IsValue (.fin false f.half) := Nat.one_mul f.half ▸ Fmt.isValue_halves (by decide)
  have hpos : f.add (f.ofInt (p : Int)) f.kHalf = .fin false (p * f.one + f.half) := by
    have hsum : p * f.one + f.half = (2 * p + 1) * f.half := by rw [hone]; ring
    rw [f.ofInt_ringPosition hp, f.kHalf_eq, Fmt.add, if_pos rfl, hsum]
    exact f.round_of_isValue (Fmt.isValue_halves (by unfold ringSize at hp; omega))
  have hlt : f.half < f.one := by have := f.half_pos; omega
  rw [hpos, m.rbEvaluate_of_fraction hp hlt hhalf (by rwa [hrest]), hrest, f.kHalf_eq]

/-! The history (R95) -/

/-- Reads at indices that agree mod N read the same word. -/
theorem Memory.memRead_congr (m : Memory) {i j : Int} (h : i % (ringSize : Int) = j % (ringSize : Int)) :
    m.memRead i = m.memRead j := congrArg m.readAt (ringIndex_eq_iff.2 h)

/-- A sample stored at writePointer, which then moves on by one, stands in front of the history: the words behind it are one position
further back, and the one it replaced was N + 1 back. -/
theorem State.History.push {s t : State} {ys : List Sample} {y : Sample} (h : s.History ys)
    (hread : ∀ i, t.rb.memRead i = if ringIndex i = s.writePointer.toNat then y else s.rb.memRead i)
    (hptr : t.writePointer.toNat = (s.writePointer.toNat + 1) % ringSize) : t.History (y :: ys) := by
  intro d hd hN
  obtain ⟨e, rfl⟩ := Nat.exists_eq_add_of_le' hd
  have hback : t.rb.memRead (t.writePointer.toNat - (e + 1 : Nat)) = t.rb.memRead (s.writePointer.toNat - e) :=
    t.rb.memRead_congr (by unfold ringSize at *; omega)
  rw [hback, hread]
  cases e with
  | zero => rw [Nat.cast_zero, Int.sub_zero, if_pos (ringIndex_toNat _)]; rfl
  | succ e =>
    have hne : ringIndex (s.writePointer.toNat - (e + 1 : Nat)) ≠ s.writePointer.toNat := by
      have := s.writePointer.isLt
      unfold ringIndex ringSize at *
      omega
    rw [if_neg hne]
    exact h (e + 1) (by omega) (by omega)

/-- A command that leaves the block in its session delivers no sample and keeps the history. -/
theorem ExecEffect.keepsHistory {i : Instr} {s t : State} {ys : List Sample} (he : ExecEffect i s t)
    (hs : s.session = .running) (ht : t.session = .running) (h : s.History ys) : t.sout = s.sout ∧ t.History ys := by
  cases he with
  | initStarts _ hidle => rw [hs] at hidle; cases hidle
  | sessionEnds => cases ht
  | ctlNotAccepted | cmdNotAccepted | feedback | frequency | wrongState | initFails | blockBegins => exact ⟨rfl, h⟩

/-- A turn that leaves the block in its session keeps the history, or delivers a sample and puts it in front. -/
theorem StepEffect.keepsHistory {u : Turn} {s t : State} {ys : List Sample} (he : StepEffect u s t) (hwf : s.rb.wf)
    (hs : s.session = .running) (ht : t.session = .running) (h : s.History ys) :
    (t.sout = s.sout ∧ t.History ys) ∨ ∃ y, t.sout = s.sout ++ [y] ∧ t.History (y :: ys) := by
  cases he with
  | reset | shutdown => cases ht
  | held | ctlIllegal | cmdIllegal | drained | finished => exact .inl ⟨rfl, h⟩
  | ctlCommand _ _ _ _ he | cmdCommand _ _ _ _ he => exact .inl (he.keepsHistory hs ht h)
  | sampled _ _ _ hx hy =>
    obtain ⟨y, hsout, -, hread, hptr, -⟩ := sampleStepFrame _ _ _ _ hwf hx (sampleStep_eq_next hx hy)
    exact .inr ⟨y, hsout, h.push hread hptr⟩

/-- Settles O31: every effect a step can have inside a session keeps the history or extends it by the sample delivered. -/
theorem historyKeptByEveryStep : Obligations.HistoryKeptByEveryStep :=
  fun _ _ _ hwf hs ht h hstep => (step_effect hstep).keepsHistory hwf hs ht h

end Machine

end Sys2Proof
end

section
/-! SUPPORT. Proofs about the parts of a sample step (R103 to R106, R113, R115): the target delay, the two smoothed registers, the read
position, and the free bits of the word it makes. -/

namespace Sys2Proof

/-- A natural number in F has no minus sign. -/
theorem Fmt.ofInt_nat (f : Fmt) (n : Nat) : f.ofInt (n : Int) = f.round false (n * f.one) 1 := by
  rw [Fmt.ofInt, Int.natAbs_natCast, decide_eq_false (by omega)]

/-- A finite value without a minus sign over +infinity is +0.0. -/
theorem Fmt.round_div_inf (f : Fmt) {num den : Nat} (h : (f.round false num den).isFinite = true) :
    f.div (f.round false num den) (.inf false) = .fin false 0 := by
  unfold Fmt.round at h ⊢
  split at h
  · rename_i hle
    rw [if_pos hle]
    rfl
  · cases h

theorem Fmt.div_nan (f : Fmt) (x : FVal) : f.div x .nan = .nan := by cases x <;> rfl

namespace Machine

/-! Step a (R103) -/

theorem State.targetDelay_of_lt {s : State} (h : (s.fval s.frequencyTarget).lt s.params.floorVal = true) :
    s.targetDelay = s.fmt.div (s.fmt.ofInt (s.sampleRate.toNat : Int)) s.params.floorVal :=
  congrArg _ (if_pos h)

theorem State.targetDelay_of_not_lt {s : State} (h : (s.fval s.frequencyTarget).lt s.params.floorVal = false) :
    s.targetDelay = s.fmt.div (s.fmt.ofInt (s.sampleRate.toNat : Int)) (s.fval s.frequencyTarget) :=
  congrArg _ (if_neg (Bool.eq_false_iff.1 h))

/-- Settles O23: FREQ_FLOOR, where the parameters meet R5, is positive and finite, so neither +infinity nor a NaN is below it. -/
theorem targetDelayClamps : Obligations.TargetDelayClamps := by
  intro s hvalid f floor rate
  obtain ⟨m, hm, hpos, hmax⟩ := Params.floor_spec hvalid
  refine ⟨fun hlt => ⟨State.targetDelay_of_lt hlt, fun hrate => ?finite⟩, State.targetDelay_of_not_lt,
    fun hf hfin => ?infinity, fun hf => ?nan⟩
  case finite =>
    have hfloor : s.fmt.IsValue (.fin false m) := hm ▸ s.fmt.isValue_unpack s.params.freqFloor
    have hbound : s.sampleRate.toNat * s.fmt.one ≤ maxDelay * m :=
      (Nat.mul_le_mul_right _ (BitVec.le_def.1 hrate)).trans hmax
    obtain ⟨c, hc, -⟩ := s.fmt.div_rate hpos hfloor.1 hbound s.sampleRate.isLt
    rw [State.targetDelay_of_lt hlt, hm, hc]
    rfl
  case infinity =>
    have hrate : rate = s.fmt.round false (s.sampleRate.toNat * s.fmt.one) 1 := s.fmt.ofInt_nat _
    have hge : f.lt s.params.floorVal = false := by rw [hf, hm]; rfl
    calc s.targetDelay = s.fmt.div rate f := State.targetDelay_of_not_lt hge
      _ = .fin false 0 := by rw [hf, hrate, s.fmt.round_div_inf (hrate ▸ hfin)]
  case nan =>
    have hge : f.lt s.params.floorVal = false := by rw [hf]; rfl
    calc s.targetDelay = s.fmt.div rate f := State.targetDelay_of_not_lt hge
      _ = .nan := by rw [hf, Fmt.div_nan]

/-! Steps b and c (R104, R105, R160) -/

/-- A finite target with a finite result is stored: the register then holds that value. -/
theorem fval_smoothReg (s : State) {kNew kOld target : FVal} {reg : FWord} (ht : target.isFinite = true)
    (hn : (onePole s.fmt kNew kOld target (s.fval reg)).isFinite = true) :
    s.fval (smoothReg s.fmt kNew kOld target reg) = onePole s.fmt kNew kOld target (s.fval reg) := by
  have hstore : smoothReg s.fmt kNew kOld target reg = s.fmt.pack 0 (onePole s.fmt kNew kOld target (s.fval reg)) :=
    if_pos (by rw [ht]; exact hn)
  rw [hstore]
  exact s.fval_pack 0 (s.fmt.isValue_add _ _) hn

/-- With a target or a result that is not finite the register holds. -/
theorem smoothReg_held (f : Fmt) {kNew kOld target : FVal} {reg : FWord}
    (h : target.isFinite = false ∨ (onePole f kNew kOld target (f.unpack reg)).isFinite = false) :
    smoothReg f kNew kOld target reg = reg :=
  if_neg (by rcases h with h | h <;> simp [h])

/-- Settles O24: step b is `smoothReg` of the one register. -/
theorem smoothDelayUpdatesOrHolds : Obligations.SmoothDelayUpdatesOrHolds := by
  intro s td n
  refine ⟨fun htd hn => ⟨fval_smoothReg s htd hn, rfl⟩, fun h => ?_⟩
  rw [State.smoothDelay, smoothReg_held s.fmt h]

/-- Settles O25: step c is `smoothReg` of the one register. -/
theorem smoothFeedbackUpdatesOrHolds : Obligations.SmoothFeedbackUpdatesOrHolds := by
  intro s target n
  refine ⟨fun ht hn => ⟨fval_smoothReg s ht hn, rfl⟩, fun h => ?_⟩
  rw [State.smoothFeedback, smoothReg_held s.fmt h]

end Machine

/-! Step d (R106, R115) -/

/-- N is exact in either format. -/
theorem Fmt.ofInt_ringSize (f : Fmt) : f.ofInt (ringSize : Int) = .fin false (ringSize * f.one) := by
  rw [f.ofInt_nat]
  refine f.round_exact false Nat.one_pos ?_ ?_ (Nat.mul_one _).symm
  · exact (show ringSize = 2 ^ 24 by decide) ▸ Nat.mul_comm _ _ ▸ f.representable_one.mul_pow 24
  · exact (Nat.mul_le_mul_right _ (by decide)).trans f.rateBound_le_maxMag

/-- A nonzero whole number of units up to N rounds to a nonzero magnitude up to N. -/
theorem Fmt.round_ringRange (f : Fmt) (s : Bool) {n : Nat} (hpos : 0 < n) (hle : n ≤ ringSize * f.one) :
    ∃ r, f.round s n 1 = .fin s r ∧ 0 < r ∧ r ≤ ringSize * f.one := by
  have hring : f.IsValue (.fin false (ringSize * f.one)) := f.ofInt_ringSize ▸ f.isValue_round _ Nat.one_pos
  obtain ⟨hrep, hmax⟩ := hring
  have hone : f.Representable 1 := f.representable_two_pow 0
  have hround : f.roundMag n 1 ≤ ringSize * f.one := f.roundMag_le Nat.one_pos hrep (by omega)
  exact ⟨f.roundMag n 1, if_pos (hround.trans hmax), f.le_roundMag Nat.one_pos hone (by omega), hround⟩

/-- A negative magnitude of at most N, with N added, is in [0, N]. -/
theorem Fmt.add_ringSize (f : Fmt) {r : Nat} (hle : r ≤ ringSize * f.one) :
    ∃ mag, f.add (.fin true r) (.fin false (ringSize * f.one)) = .fin false mag ∧ mag ≤ ringSize * f.one := by
  rcases hle.eq_or_lt with rfl | hlt
  · exact ⟨0, by simp [Fmt.add], Nat.zero_le _⟩
  · obtain ⟨mag, hmag, -, hmagle⟩ := f.round_ringRange false (Nat.sub_pos_of_lt hlt) (Nat.sub_le _ _)
    exact ⟨mag, by simp [Fmt.add, hlt.ne, hlt.not_gt, hmag], hmagle⟩

namespace Machine

/-- Settles O26: the difference is already in [0, N], or it is negative, a nonzero magnitude of at most N, and adding N brings it there. -/
theorem readPositionInRange : Obligations.ReadPositionInRange := by
  rintro s ⟨d, hd, hdle⟩
  have hptr : s.writePointer.toNat < ringSize := s.writePointer.isLt
  have hptrle : s.writePointer.toNat * s.fmt.one ≤ ringSize * s.fmt.one := Nat.mul_le_mul_right _ hptr.le
  have hdring : d ≤ ringSize * s.fmt.one := hdle.trans (Nat.mul_le_mul_right _ (by decide))
  unfold State.readPosition
  rw [s.fmt.ofInt_ringPosition hptr, hd, s.fmt.ofInt_ringSize]
  generalize s.writePointer.toNat * s.fmt.one = p at hptrle ⊢
  rcases Nat.lt_trichotomy p d with hlt | rfl | hgt
  · obtain ⟨r, hr, hrpos, hrle⟩ := s.fmt.round_ringRange true (Nat.sub_pos_of_lt hlt) ((Nat.sub_le _ _).trans hdring)
    have hsub : s.fmt.sub (.fin false p) (.fin false d) = .fin true r := by
      simp [Fmt.sub, FVal.neg, Fmt.add, hlt.ne, hlt.not_gt, hr]
    have hneg : (FVal.fin true r).lt (.fin false 0) = true := by simpa [FVal.lt, signedMag] using hrpos
    simp only [hsub, if_pos hneg]
    exact s.fmt.add_ringSize hrle
  · exact ⟨0, by simp [Fmt.sub, FVal.neg, Fmt.add, FVal.lt, signedMag], Nat.zero_le _⟩
  · obtain ⟨r, hr, -, hrle⟩ := s.fmt.round_ringRange false (Nat.sub_pos_of_lt hgt) ((Nat.sub_le _ _).trans hptrle)
    exact ⟨r, by simp [Fmt.sub, FVal.neg, Fmt.add, FVal.lt, signedMag, hgt, hgt.ne', hr], hrle⟩

end Machine

/-! The free bits (R113, I4) -/

/-- A NaN narrows to the encoding of a NaN, whatever the free bits. -/
theorem Fmt.sampleVal_narrow_nan (f : Fmt) (raw : BitVec 64) {x : FVal} (h : f.narrowVal x = .nan) :
    sampleVal (f.narrow raw x) = .nan := by
  have hfits : ((Fmt.pack .binary32 raw .nan).setWidth 32).setWidth 64 = Fmt.pack .binary32 raw .nan :=
    Fmt.fits_pack .binary32 raw (x := .nan) trivial
  rw [sampleVal, Fmt.narrow, h, hfits, Fmt.unpack_pack .binary32 raw (x := .nan) trivial]

/-- Two narrowings of a value differ at most in the encoding of a NaN. -/
theorem Fmt.sameSample_narrow (f : Fmt) (raw raw' : BitVec 64) (x : FVal) :
    SameSample (f.narrow raw x) (f.narrow raw' x) := by
  cases h : f.narrowVal x with
  | nan => exact .inr ⟨f.sampleVal_narrow_nan raw h, f.sampleVal_narrow_nan raw' h⟩
  | inf | fin =>
    refine .inl ?_
    rw [Fmt.narrow, Fmt.narrow, h]
    rfl

namespace Machine

/-- Settles O37: the counter reaches steps d to g only as the bits `outputWord` narrows with. -/
theorem onlyNaNEncodingsAreOpen : Obligations.OnlyNaNEncodingsAreOpen := by
  intro s d x y y' hy hy'
  obtain ⟨tap, htap, rfl⟩ := Option.map_eq_some_iff.1 hy
  obtain ⟨tap', htap', rfl⟩ := Option.map_eq_some_iff.1 hy'
  obtain rfl : tap = tap' := Option.some.inj (htap.symm.trans htap')
  exact s.fmt.sameSample_narrow _ _ _

end Machine

end Sys2Proof
end

section
/-! SUPPORT. Proofs about a block's steps (R100, R102, R111): PROC begins it, the Engine's turn in it holds without input, takes a sample step
or responds, and no turn but PROC's drain moves a target (R61, R112). -/

namespace Sys2Proof.Machine

theorem step_of_engineTurn {s : State} (h : s.turn = .engine) : step s = s.passTurn.engineStep := by
  rw [step, h]
  rfl

theorem engineStep_of_sample {s : State} (h : s.session ≠ .terminated) (hq : s.seq = .sample)
    (hk : s.blockDone < s.blockLen) : s.engineStep = s.sampleStep := by
  simp only [State.engineStep, if_neg h, hq, if_pos hk]

theorem engineStep_of_respond {s : State} (h : s.session ≠ .terminated) (hq : s.seq = .respond) :
    s.engineStep = .next s.endBlock := by
  simp only [State.engineStep, if_neg h, hq]

/-- Settles O57: the Engine's turn in the sample loop is the sample step, and at its end the response. -/
theorem engineStepsOfABlock : Obligations.EngineStepsOfABlock := by
  refine ⟨fun s hturn hlive hq hk => ?sample, fun s hturn hlive hq => ?respond⟩
  case sample => exact (step_of_engineTurn hturn).trans (engineStep_of_sample hlive hq hk)
  case respond => exact (step_of_engineTurn hturn).trans (engineStep_of_respond hlive hq)

/-- Settles O55: the sample step of a block without input holds. -/
theorem blockHoldsWithoutInput : Obligations.BlockHoldsWithoutInput := by
  intro s hturn hlive hq hk hsin
  obtain ⟨hsample, -⟩ := engineStepsOfABlock
  exact (hsample s hturn hlive hq hk).trans (sampleStep_held hsin)

/-- The loop's test before the first sample, in numbers (R100). -/
theorem loopSeq_zero (len : BitVec 32) : loopSeq len 0#32 = if len.toNat = 0 then .respond else .sample := by
  simp only [loopSeq, BitVec.lt_def, BitVec.toNat_zero, Nat.pos_iff_ne_zero, ne_eq, ite_not]

/-- Settles O19: in RUNNING the command does `beginBlock`, the drain and the loop's first test. -/
theorem procBeginsBlock : Obligations.ProcBeginsBlock := by
  intro len s hs hq
  have ha : s.acceptsCmd = true := by simp [State.acceptsCmd, hs, hq]
  rw [exec_of_effect (.blockBegins ha hs), State.beginBlock, loopSeq_zero]
  rfl

/-- The word a smoothed state makes of an input word and a defined tap: steps f and g (R108, R109). -/
theorem State.sampleWord_of_tap {s : State} {tap : FVal} (h : s.tap s.readPosition = some tap) (x : Sample) :
    s.sampleWord x = some (s.outputWord (s.mix (s.fmt.widen x) tap)) := by
  rw [State.sampleWord, h, Option.map_some]

/-- Settles O21: the sample step delivers the word the smoothed state makes of its tap, the mean of the two evaluations. -/
theorem sampleStepRecurrence : Obligations.SampleStepRecurrence := by
  intro s x rest e1 e2 hx h1 h2
  have htap : s.smoothed.tap s.smoothed.readPosition =
      some (s.fmt.add (s.fmt.mul s.fmt.kHalf e1) (s.fmt.mul s.fmt.kHalf e2)) := by
    simp only [State.tap, State.smoothed_rb, State.smoothed_fmt, h1, h2]
  refine ⟨_, sampleStep_eq_next hx (State.sampleWord_of_tap htap x), ?word, by simp, by simp⟩
  case word => simp [State.outputWord, State.mix, State.drawn]

/-! The targets (R61, R112) -/

/-- Neither target moves. -/
def KeepsTargets (s t : State) : Prop := t.feedbackTarget = s.feedbackTarget ∧ t.frequencyTarget = s.frequencyTarget

/-- Within a session only PROC moves a target. -/
theorem ExecEffect.keepsTargets {i : Instr} {s t : State} (he : ExecEffect i s t) (hs : s.session = .running)
    (ht : t.session = .running) : KeepsTargets s t ∨ ∃ len, i = .proc len := by
  cases he with
  | ctlNotAccepted | cmdNotAccepted | feedback | frequency | wrongState | initFails => exact .inl ⟨rfl, rfl⟩
  | initStarts _ hidle => rw [hs] at hidle; cases hidle
  | blockBegins => exact .inr ⟨_, rfl⟩
  | sessionEnds => cases ht

/-- Within a session a turn that moves a target is the Engine's, finishing a DRAIN or accepting a PROC. -/
theorem StepEffect.keepsTargets {u : Turn} {s t : State} (he : StepEffect u s t) (hs : s.session = .running)
    (ht : t.session = .running) :
    KeepsTargets s t ∨ (u = .engine ∧ (s.seq = .drain ∨
      (s.seq = .ready ∧ ∃ w rest len, s.cmd = w :: rest ∧ decode .cmd w = .instr (.proc len)))) := by
  cases he with
  | reset | shutdown => cases ht
  | held | ctlIllegal | cmdIllegal | finished => exact .inl ⟨rfl, rfl⟩
  | sampled => exact .inl ⟨by simp, by simp⟩
  | drained _ hq => exact .inr ⟨rfl, .inl hq⟩
  | ctlCommand _ _ _ hp he =>
    obtain hkeep | ⟨len, rfl⟩ := he.keepsTargets hs ht
    · exact .inl hkeep
    · cases hp
  | cmdCommand hcmd ha hd _ he =>
    obtain hkeep | ⟨len, rfl⟩ := he.keepsTargets hs ht
    · exact .inl hkeep
    · exact .inr ⟨rfl, .inr ⟨ready_of_acceptsCmd ha, _, _, len, hcmd, hd⟩⟩

/-- Settles O48: the effects that drain the mailbox are an Engine turn's, a resumed DRAIN or an accepted PROC. -/
theorem targetsChangeOnlyAtADrain : Obligations.TargetsChangeOnlyAtADrain :=
  fun _ _ h hs ht => (step_effect h).keepsTargets hs ht

end Sys2Proof.Machine
end

section
/-! SUPPORT. Proof that a block runs to its response (R100, R111, R188): in its loop each step takes one input word, keeps the invariant and
leaves one sample less to do, and with none left the block responds. -/

namespace Sys2Proof.Machine

/-- In a state of the invariant a block is in its loop, `xs` the input words it still takes and `more` those after them, and no
other agent moves. -/
structure State.InBlock (s : State) (xs more : List Sample) : Prop where
  inv : s.Inv
  running : s.session = .running
  noTurns : s.turns = []
  noCtl : s.ctl = []
  loop : s.seq = loopSeq s.blockLen s.blockDone
  count : s.blockDone.toNat + xs.length = s.blockLen.toNat
  input : s.sin = xs ++ more

/-- `t` is where a block with `n` samples to go, begun or found in `s`, is answered: the samples delivered, the response sent, `more`
the input left. -/
structure State.BlockAnswered (s t : State) (n : Nat) (more : List Sample) : Prop where
  samples : ∃ ys : List Sample, ys.length = n ∧ t.sout = s.sout ++ ys
  response : t.rsp = s.rsp ++ [0x00000000#32]
  ready : t.seq = .ready
  running : t.session = .running
  input : t.sin = more
  commands : t.cmd = s.cmd
  pointer : t.writePointer = s.writePointer + BitVec.ofNat 24 n
  fault : t.fault = s.fault

namespace State.InBlock

variable {s : State} {xs more : List Sample}

theorem live (h : s.InBlock xs more) : s.session ≠ .terminated := by rw [h.running]; decide

theorem step_eq (h : s.InBlock xs more) : step s = s.engineStep := by
  have hturn : s.turn = .engine := by rw [State.turn, h.noTurns, h.noCtl]; rfl
  have hpass : s.passTurn = s := by rw [State.passTurn, h.noTurns, List.tail_nil, ← h.noTurns]
  rw [step_of_engineTurn hturn, hpass]

/-- With no sample left the block responds. -/
theorem step_nil (h : s.InBlock [] more) : step s = .next s.endBlock := by
  have hdone : ¬ s.blockDone < s.blockLen := by
    have := h.count
    rw [List.length_nil] at this
    rw [BitVec.lt_def]
    omega
  exact h.step_eq.trans (engineStep_of_respond h.live (h.loop.trans (if_neg hdone)))

/-- With samples left the block takes one input word and delivers one sample. -/
theorem step_cons {x : Sample} (h : s.InBlock (x :: xs) more) :
    ∃ t y, step s = .next t ∧ t.InBlock xs more ∧ t.sout = s.sout ++ [y] ∧ t.rsp = s.rsp ∧ t.cmd = s.cmd ∧
      t.writePointer = s.writePointer + 1#24 ∧ t.fault = s.fault := by
  have hlt : s.blockDone.toNat + 1 + xs.length = s.blockLen.toNat := by
    rw [← h.count, List.length_cons]
    omega
  have hk : s.blockDone < s.blockLen := by
    rw [BitVec.lt_def]
    omega
  have hstep : step s = s.sampleStep := h.step_eq.trans (engineStep_of_sample h.live (h.loop.trans (if_pos hk)) hk)
  obtain ⟨y, hy⟩ := State.sampleWord_isSome (h.inv.smoothed.delayInRange h.running) x
  have hnext := hstep.trans (sampleStep_eq_next h.input hy)
  refine ⟨_, y, hnext, ?_, by simp, by simp, by simp, by simp, by simp⟩
  exact {
    inv := (step_effect hnext).inv h.inv.passTurn
    running := by simpa using h.running
    noTurns := by simpa using h.noTurns
    noCtl := by simpa using h.noCtl
    loop := by simp
    count := by
      have hadd : (s.blockDone + 1#32).toNat = s.blockDone.toNat + 1 := by bv_omega
      simpa [-BitVec.toNat_add, hadd] using hlt
    input := by simp }

/-- A block in its loop runs to its response, one step for each sample left and one for the response. -/
theorem runs_to_response (h : s.InBlock xs more) :
    ∃ t, runSteps (xs.length + 1) s = .next t ∧ s.BlockAnswered t xs.length more := by
  induction xs generalizing s with
  | nil =>
    refine ⟨s.endBlock, by simp only [List.length_nil, runSteps, h.step_nil], ?_⟩
    exact {
      samples := ⟨[], rfl, by simp⟩
      response := by simp [rspWord, codeOk]
      ready := rfl
      running := h.running
      input := h.input
      commands := rfl
      pointer := by simp
      fault := rfl }
  | cons x xs ih =>
    obtain ⟨u, y, hstep, hblock, hsout, hrsp, hcmd, hptr, hfault⟩ := h.step_cons
    obtain ⟨t, hrun, ha⟩ := ih hblock
    obtain ⟨ys, hlen, hys⟩ := ha.samples
    refine ⟨t, by rw [List.length_cons, runSteps, hstep]; exact hrun, ?_⟩
    exact {
      samples := ⟨y :: ys, by simp [hlen], by simp [hys, hsout]⟩
      response := by rw [ha.response, hrsp]
      ready := ha.ready
      running := ha.running
      input := ha.input
      commands := ha.commands.trans hcmd
      pointer := by
        rw [ha.pointer, hptr, List.length_cons, Nat.add_comm, BitVec.ofNat_add, BitVec.add_assoc]
      fault := ha.fault.trans hfault }

end State.InBlock

/-- Settles O20: the first step accepts the PROC, and `runs_to_response`, by induction on the samples left, is the rest. -/
theorem procRunsToItsResponse : Obligations.ProcRunsToItsResponse := by
  intro s len cmds xs more hinv hs hq hturns hctl hcmd hsin hlen
  have hturn : s.turn = .engine := by rw [State.turn, hturns, hctl]; rfl
  have hlive : s.session ≠ .terminated := by rw [hs]; decide
  have ha : (s.passTurn.takeCmd cmds).acceptsCmd = true := by simp [State.acceptsCmd, hs, hq]
  have hbegin : step s = .next ((s.passTurn.takeCmd cmds).beginBlock len) :=
    (stepRunsAcceptedCmdWord s _ cmds _ hturn hq hlive hcmd (decode_encode (.proc len))).trans
      (exec_of_effect (.blockBegins ha hs))
  have hblock : ((s.passTurn.takeCmd cmds).beginBlock len).InBlock xs more := {
    inv := (step_effect hbegin).inv hinv.passTurn
    running := by simpa using hs
    noTurns := by simp [hturns]
    noCtl := by simpa using hctl
    loop := by simp
    count := by simp [hlen]
    input := by simpa using hsin }
  obtain ⟨t, hrun, ⟨ys, hys, hsout⟩, hrsp, hready, hrunning, hinput, hcmds, hptr, hfault⟩ := hblock.runs_to_response
  rw [← hlen]
  refine ⟨t, ys, ?run, hys, by simpa using hsout, by simpa using hrsp, hready, hrunning, hinput, by simpa using hcmds,
    by simpa using hptr, by simpa using hfault⟩
  case run =>
    rw [runSteps, hbegin]
    exact hrun

end Sys2Proof.Machine
end

section
/-! SUPPORT. Proofs about the parameter channel's commands (R130, R131): outside TERMINATED the CTL port accepts a message, and the message
fills its own slot of the mailbox. -/

namespace Sys2Proof.Machine

/-- Settles O9: the message is accepted and delivered, and delivering feedback is `fillFb`. -/
theorem fbkFillsItsSlot : Obligations.FbkFillsItsSlot := by
  intro arg s hlive
  calc exec (.fbk arg) s = .next (s.deliver true arg) := exec_messageCommand hlive true arg
    _ = .next { s with mbxFb := ⟨true, s.floatOperand arg⟩, draws := s.draws + 1 } := rfl

/-- Settles O10: the message is accepted and delivered, and delivering a frequency is `fillFq`. -/
theorem frqFillsItsSlot : Obligations.FrqFillsItsSlot := by
  intro arg s hlive
  calc exec (.frq arg) s = .next (s.deliver false arg) := exec_messageCommand hlive false arg
    _ = .next { s with mbxFq := ⟨true, s.floatOperand arg⟩, draws := s.draws + 1 } := rfl

end Sys2Proof.Machine
end

section
/-! SUPPORT. Proofs about the session (R140 to R144): INIT and TEARDOWN in the state each needs, the edges of the session's life, and that
a command in progress ends before CMD accepts another (R143, R188). -/

namespace Sys2Proof.Machine

/-! INIT and TEARDOWN (R140 to R142) -/

theorem acceptsCmd_of_ready {s : State} (hs : s.session ≠ .terminated) (hq : s.seq = .ready) : s.acceptsCmd = true := by
  simp [State.acceptsCmd, hs, hq]

/-- The rate's range, in numbers (R22, R141). -/
theorem State.rateOk_iff {s : State} {sr : BitVec 32} :
    s.rateOk sr = true ↔ 1 ≤ sr.toNat ∧ sr.toNat ≤ s.params.srMax.toNat := by
  simp [State.rateOk, BitVec.le_def]

/-- INIT in IDLE with a rate in range starts a session. -/
theorem exec_init_of_rateOk {s : State} {sr : BitVec 32} (hs : s.session = .idle) (hq : s.seq = .ready)
    (hr : s.rateOk sr = true) : exec (.init sr) s = .next ((s.startSession sr).respond codeOk) :=
  exec_of_effect (.initStarts (acceptsCmd_of_ready (by simp [hs]) hq) hs hr)

/-- A ring buffer just zero-filled remembers no sample (R53, R95). -/
theorem State.history_nil {s : State} (h : s.rb = Memory.zeroFilled) : s.History [] :=
  fun _ _ _ => by rw [h, Memory.zeroFilled_memRead, List.getD_nil]

/-- Settles O13: the session started is `startSession`, over a zero-filled ring buffer. -/
theorem initStartsSession : Obligations.InitStartsSession := by
  intro sr s hs hq hlow hhigh
  have hr : s.rateOk sr = true := State.rateOk_iff.2 ⟨hlow, hhigh⟩
  exact ⟨_, exec_init_of_rateOk hs hq hr, Memory.zeroFilled_memRead, State.history_nil rfl, rfl⟩

/-- Settles O17: `startSession` overwrites every engine register and RB, and its rate check reads none of them. -/
theorem initForgetsTheOldSession : Obligations.InitForgetsTheOldSession := by
  intro sr s e hs hq hlow hhigh
  have hr : s.rateOk sr = true := State.rateOk_iff.2 ⟨hlow, hhigh⟩
  calc exec (.init sr) (s.withEngine e)
      = .next (((s.withEngine e).startSession sr).respond codeOk) := exec_init_of_rateOk (s := s.withEngine e) hs hq hr
    _ = .next ((s.startSession sr).respond codeOk) := rfl
    _ = exec (.init sr) s := (exec_init_of_rateOk hs hq hr).symm

/-- Settles O14: a rate out of range fails the check, and INIT answers its fault. -/
theorem initRejectsRate : Obligations.InitRejectsRate := by
  intro sr s hs hq hrange
  have hr : s.rateOk sr = false := by
    rw [Bool.eq_false_iff, ne_eq, State.rateOk_iff]
    omega
  exact exec_of_effect (.initFails (acceptsCmd_of_ready (by simp [hs]) hq) hs hr)

/-- Settles O16: in RUNNING the command does `endSession`, which writes SESSION and loses the engine. -/
theorem teardownEndsSession : Obligations.TeardownEndsSession := by
  intro s hs hq
  exact ⟨_, exec_of_effect (.sessionEnds (acceptsCmd_of_ready (by simp [hs]) hq) hs), rfl⟩

/-! The session's life (R144) -/

/-- A command leaves SESSION, or is an INIT or a TEARDOWN that answers 0x00. -/
theorem ExecEffect.session_cases {i : Instr} {s t : State} (he : ExecEffect i s t) :
    t.session = s.session ∨
    (s.session = .idle ∧ t.session = .running ∧ t.rsp = s.rsp ++ [0#32] ∧ ∃ sr, i = .init sr) ∨
    (s.session = .running ∧ t.session = .idle ∧ t.rsp = s.rsp ++ [0#32] ∧ i = .teardown) := by
  cases he with
  | ctlNotAccepted | cmdNotAccepted | feedback | frequency | wrongState | initFails | blockBegins => exact .inl rfl
  | initStarts _ hs => exact .inr (.inl ⟨hs, rfl, rfl, _, rfl⟩)
  | sessionEnds _ hs => exact .inr (.inr ⟨hs, rfl, rfl, rfl⟩)

/-- An agent's turn leaves SESSION, or accepts an INIT or a TEARDOWN and answers 0x00; SHUTDOWN and RST are the other turns. -/
theorem StepEffect.session_cases {u : Turn} {s t : State} (he : StepEffect u s t) :
    t.session = s.session ∨
    (s.session = .idle ∧ t.session = .running ∧ t.rsp = s.rsp ++ [0#32] ∧
      ∃ w rest sr, s.cmd = w :: rest ∧ decode .cmd w = .instr (.init sr)) ∨
    (s.session = .running ∧ t.session = .idle ∧ t.rsp = s.rsp ++ [0#32] ∧
      ∃ w rest, s.cmd = w :: rest ∧ decode .cmd w = .instr .teardown) ∨
    u = .shutdown ∨ u = .reset := by
  cases he with
  | held | ctlIllegal | cmdIllegal | drained | finished => exact .inl rfl
  | sampled => exact .inl (by simp)
  | shutdown => exact .inr (.inr (.inr (.inl rfl)))
  | reset => exact .inr (.inr (.inr (.inr rfl)))
  | ctlCommand _ _ _ hp he =>
    obtain rfl | ⟨arg, rfl | rfl⟩ := he.ctl_cases hp
    all_goals exact .inl rfl
  | cmdCommand hq _ hd _ he =>
    obtain hkeep | ⟨hs, ht, hrsp, sr, rfl⟩ | ⟨hs, ht, hrsp, rfl⟩ := he.session_cases
    · exact .inl hkeep
    · exact .inr (.inl ⟨hs, ht, hrsp, _, _, sr, hq, hd⟩)
    · exact .inr (.inr (.inl ⟨hs, ht, hrsp, _, _, hq, hd⟩))

theorem step_of_shutdownTurn {s : State} (h : s.turn = .shutdown) : step s = .next s.passTurn.shutdown := by
  rw [step, h]
  rfl

theorem step_of_resetTurn {s : State} (h : s.turn = .reset) : step s = .next s.passTurn.powerOn := by
  rw [step, h]
  rfl

/-- A step that answers a fault leaves SESSION: the edges answer 0x00, SHUTDOWN and RST answer nothing. -/
theorem session_eq_of_faultResponse {s t : State} (h : step s = .next t) {c : RspWord} (hrsp : t.rsp = s.rsp ++ [c])
    (hc : c ≠ 0#32) : t.session = s.session := by
  obtain hkeep | ⟨-, -, hok, -⟩ | ⟨-, -, hok, -⟩ | hu | hu := (step_effect h).session_cases
  · exact hkeep
  · exact absurd (by simpa using hrsp.symm.trans hok) hc
  · exact absurd (by simpa using hrsp.symm.trans hok) hc
  · cases (step_of_shutdownTurn hu).symm.trans h
    simp at hrsp
  · cases (step_of_resetTurn hu).symm.trans h
    simp at hrsp

/-- Within a session no command changes the rate. -/
theorem ExecEffect.sampleRate_eq {i : Instr} {s t : State} (he : ExecEffect i s t) (hs : s.session = .running)
    (ht : t.session = .running) : t.sampleRate = s.sampleRate := by
  cases he with
  | ctlNotAccepted | cmdNotAccepted | feedback | frequency | wrongState | initFails | blockBegins => rfl
  | initStarts _ hidle => rw [hs] at hidle; cases hidle
  | sessionEnds => cases ht

/-- Within a session no turn changes the rate. -/
theorem StepEffect.sampleRate_eq {u : Turn} {s t : State} (he : StepEffect u s t) (hs : s.session = .running)
    (ht : t.session = .running) : t.sampleRate = s.sampleRate := by
  cases he with
  | reset | shutdown => cases ht
  | held | ctlIllegal | cmdIllegal | drained | finished => rfl
  | sampled => simp
  | ctlCommand _ _ _ _ he | cmdCommand _ _ _ _ he => exact he.sampleRate_eq hs ht

/-- Settles O42: the edges are those of `StepEffect.session_cases`. -/
theorem sessionLifecycle : Obligations.SessionLifecycle := by
  intro s t h
  refine ⟨(step_effect h).session_cases, fun hu => ?shutdown, fun hu => ?reset,
    fun ⟨_, hrsp, hc⟩ => session_eq_of_faultResponse h hrsp hc, (step_effect h).sampleRate_eq⟩
  case shutdown =>
    cases (step_of_shutdownTurn hu).symm.trans h
    rfl
  case reset =>
    cases (step_of_resetTurn hu).symm.trans h
    rfl

/-! One command at a time (R143, R188) -/

theorem loopSeq_ne_ready (len done : BitVec 32) : loopSeq len done ≠ .ready := by
  unfold loopSeq
  split <;> decide

/-- A turn that finds a command in progress takes no CMD word, and makes SEQ READY only by the response 0x00 or as RST. -/
theorem StepEffect.oneCommandAtATime {u : Turn} {s t : State} (he : StepEffect u s t) (hq : s.seq ≠ .ready) :
    t.cmd = s.cmd ∧ (t.seq = .ready → t.rsp = s.rsp ++ [0x00000000#32] ∨ u = .reset) := by
  cases he with
  | held | shutdown | ctlIllegal => exact ⟨rfl, fun hr => absurd hr hq⟩
  | reset => exact ⟨rfl, fun _ => .inr rfl⟩
  | ctlCommand _ _ _ hp he =>
    obtain rfl | ⟨arg, rfl | rfl⟩ := he.ctl_cases hp
    all_goals exact ⟨rfl, fun hr => absurd hr hq⟩
  | cmdCommand _ ha | cmdIllegal _ ha => exact absurd (ready_of_acceptsCmd ha) hq
  | drained => exact ⟨rfl, fun hr => absurd hr (loopSeq_ne_ready _ _)⟩
  | sampled => exact ⟨by simp, fun hr => absurd hr (loopSeq_ne_ready _ _)⟩
  | finished => exact ⟨rfl, fun _ => .inl rfl⟩

/-- Settles O45: with SEQ not READY no effect of a step takes a CMD word, and `endBlock` and RST alone make SEQ READY. -/
theorem oneCommandAtATime : Obligations.OneCommandAtATime :=
  fun _ _ h hq => (step_effect h).oneCommandAtATime hq

end Sys2Proof.Machine
end

section
/-! SUPPORT. Proofs about the faults (R150 to R158): an illegal word and a command in the wrong session state only record and answer, FAULT
keeps the first code, and a terminated block stays as it is until RST. -/

namespace Sys2Proof.Machine

/-! What is recorded (R151, R152, R154) -/

theorem runWord_cmd_of_illegal {w : CmdWord} {why : Illegal} (s : State) (h : decode .cmd w = .illegal why) :
    s.runWord .cmd w = .next (s.faultCmd .illegalCmd) := by
  simp only [State.runWord, h]

theorem runWord_ctl_of_illegal {w : CmdWord} {why : Illegal} (s : State) (h : decode .ctl w = .illegal why) :
    s.runWord .ctl w = .next (s.raise .illegalCmd) := by
  simp only [State.runWord, h]

theorem step_of_controlTurn {s : State} (h : s.turn = .control) : step s = s.passTurn.controlStep := by
  rw [step, h]
  rfl

/-- In TERMINATED an agent's turn accepts no word and takes no step (R151, R154). -/
theorem step_of_terminated {s : State} (hs : s.session = .terminated) (hturn : s.turn = .engine ∨ s.turn = .control) :
    step s = .next s.passTurn := by
  rcases hturn with hturn | hturn
  · exact (step_of_engineTurn hturn).trans (engineStep_of_terminated hs)
  · exact (step_of_controlTurn hturn).trans (controlStep_held (.inr (by simp [State.acceptsCtl, hs])))

/-- Settles O7: an accepted illegal word's step is `faultCmd` on CMD and `raise` on CTL, and in TERMINATED both turns hold. -/
theorem illegalWordsOnlyRecord : Obligations.IllegalWordsOnlyRecord := by
  refine ⟨fun s w rest why hturn hq hlive hcmd hdec => ?cmd, fun s w rest why hturn hlive hctl hdec => ?ctl,
    fun s => step_of_terminated⟩
  case cmd =>
    calc step s = s.passTurn.engineStep := step_of_engineTurn hturn
      _ = s.passTurn.acceptStep := engineStep_of_ready hlive hq
      _ = (s.passTurn.takeCmd rest).runWord .cmd w := acceptStep_accepts hcmd (acceptsCmd_of_ready hlive hq)
      _ = .next ((s.passTurn.takeCmd rest).faultCmd .illegalCmd) := runWord_cmd_of_illegal _ hdec
  case ctl =>
    calc step s = s.passTurn.controlStep := step_of_controlTurn hturn
      _ = (s.passTurn.takeCtl rest).runWord .ctl w := controlStep_accepts hctl (bne_iff_ne.2 hlive)
      _ = .next ((s.passTurn.takeCtl rest).raise .illegalCmd) := runWord_ctl_of_illegal _ hdec

/-- Settles O15: in these states the command is accepted and finds a session state it does not need. -/
theorem wrongSessionStateOnlyRecords : Obligations.WrongSessionStateOnlyRecords := by
  rintro i s hq (⟨⟨sr, rfl⟩, hs⟩ | ⟨⟨len, rfl⟩ | rfl, hs⟩)
  all_goals
    exact exec_of_effect (.wrongState rfl (acceptsCmd_of_ready (by simp [hs]) hq) (by simp [hs, requiredSession]))

/-- Settles O50: the turn is `shutdown`, which writes FAULT and SESSION. -/
theorem shutdownIsTaken : Obligations.ShutdownIsTaken := fun _ hturn => step_of_shutdownTurn hturn

/-! The first fault (R155) -/

/-- A fault already recorded stays, or an INIT that starts a session clears it. -/
theorem ExecEffect.fault_cases {i : Instr} {s t : State} (he : ExecEffect i s t) (hf : s.fault ≠ 0x00#8) :
    t.fault = s.fault ∨ (t.fault = 0x00#8 ∧ s.session = .idle ∧ t.session = .running) := by
  cases he with
  | ctlNotAccepted | cmdNotAccepted | feedback | frequency | blockBegins | sessionEnds => exact .inl rfl
  | wrongState | initFails => exact .inl (if_neg hf)
  | initStarts _ hs => exact .inr ⟨rfl, hs, rfl⟩

/-- A fault already recorded stays in every turn but RST and a successful INIT's. -/
theorem StepEffect.fault_cases {u : Turn} {s t : State} (he : StepEffect u s t) (hf : s.fault ≠ 0x00#8) :
    t.fault = s.fault ∨ (t.fault = 0x00#8 ∧ (u = .reset ∨ (s.session = .idle ∧ t.session = .running))) := by
  cases he with
  | held | drained | finished => exact .inl rfl
  | sampled => exact .inl (by simp)
  | reset => exact .inr ⟨rfl, .inl rfl⟩
  | shutdown | ctlIllegal | cmdIllegal => exact .inl (if_neg hf)
  | ctlCommand _ _ _ _ he | cmdCommand _ _ _ _ he => exact (he.fault_cases hf).imp_right (And.imp_right .inr)

/-- Settles O43: `raise` reads FAULT first, and no effect of a step clears it but RST's and a successful INIT's. -/
theorem firstFaultIsKept : Obligations.FirstFaultIsKept :=
  ⟨State.raise_fault, fun _ _ h hf => (step_effect h).fault_cases hf⟩

/-! After SHUTDOWN (R154, R158) -/

/-- A further SHUTDOWN finds its fault recorded and its session terminated, and changes nothing. -/
theorem State.shutdown_of_terminated {s : State} (hs : s.session = .terminated) (hf : s.fault ≠ 0x00#8) : s.shutdown = s := by
  rw [State.shutdown, State.raise, if_neg hf, ← hs]

/-- A schedule without RST has no RST turn next: the default turn is an agent's. -/
theorem turn_ne_reset {s : State} (h : Turn.reset ∉ s.turns) : s.turn ≠ .reset := by
  unfold State.turn
  split
  · rename_i hturns
    rintro rfl
    exact h (hturns ▸ List.mem_cons_self)
  · split <;> decide

/-- In TERMINATED, its fault recorded, every turn but RST passes and does nothing else. -/
theorem step_of_inert {s : State} (hs : s.session = .terminated) (hf : s.fault ≠ 0x00#8) (hturn : s.turn ≠ .reset) :
    step s = .next s.passTurn := by
  cases hu : s.turn with
  | engine => exact step_of_terminated hs (.inl hu)
  | control => exact step_of_terminated hs (.inr hu)
  | shutdown => rw [step_of_shutdownTurn hu, State.shutdown_of_terminated (s := s.passTurn) hs hf]
  | reset => exact absurd hu hturn

/-- Settles O51, by induction on the steps: each of them passes its turn and leaves a state of the same kind. -/
theorem terminatedStaysInert : Obligations.TerminatedStaysInert := by
  intro n
  induction n with
  | zero => exact fun _ _ _ _ => rfl
  | succ n ih =>
    intro s hs hf hturns
    have hrest : Turn.reset ∉ s.passTurn.turns := fun h => hturns (List.mem_of_mem_tail h)
    rw [runSteps, step_of_inert hs hf (turn_ne_reset hturns)]
    simpa [State.passTurn] using ih s.passTurn hs hf hrest

end Sys2Proof.Machine
end

section
/-! SUPPORT. Proof that finite samples make no NaN in binary64 (R160, R161): a tap of finite words is a finite value far below the largest one,
so neither its product with the finite feedback nor the sum with the finite input is a NaN. -/

namespace Sys2Proof

/-! Operations on finite values in binary64 (R8) -/

theorem FVal.isNumber_iff_ne_nan {x : FVal} : x.isNumber = true ↔ x ≠ .nan := by cases x <;> simp [FVal.isNumber]

theorem Fmt.Within.isFinite {f : Fmt} {k : Nat} {x : FVal} (h : f.Within k x) : x.isFinite = true := by
  obtain ⟨s, m, rfl, -⟩ := h
  rfl

theorem Fmt.isNumber_round (f : Fmt) (s : Bool) (num den : Nat) : (f.round s num den).isNumber = true := by
  unfold Fmt.round
  split <;> rfl

/-- A sum of finite values is one rounding of at most the sum of their magnitudes. -/
theorem Fmt.add_fin_eq_round (f : Fmt) (s t : Bool) (m n : Nat) :
    ∃ u num, f.add (.fin s m) (.fin t n) = f.round u num 1 ∧ num ≤ m + n := by
  simp only [Fmt.add]
  split
  · exact ⟨s, m + n, rfl, le_rfl⟩
  · split
    · exact ⟨false, 0, (f.round_of_isValue (f.isValue_zero false)).symm, Nat.zero_le _⟩
    · split
      · exact ⟨s, m - n, rfl, by omega⟩
      · exact ⟨t, n - m, rfl, by omega⟩

/-- A finite value plus any number is a number: the sum of an infinity and a finite value is that infinity. -/
theorem Fmt.isNumber_add (f : Fmt) {x y : FVal} (hx : x.isFinite = true) (hy : y.isNumber = true) :
    (f.add x y).isNumber = true := by
  cases x with
  | nan | inf => cases hx
  | fin s m =>
    cases y with
    | nan => cases hy
    | inf => rfl
    | fin t n =>
      obtain ⟨u, num, hsum, -⟩ := f.add_fin_eq_round s t m n
      rw [hsum]
      exact f.isNumber_round u num 1

/-- The product of two finite values is a number: at most it overflows. -/
theorem Fmt.isNumber_mul (f : Fmt) {x y : FVal} (hx : x.isFinite = true) (hy : y.isFinite = true) :
    (f.mul x y).isNumber = true := by
  cases x with
  | nan | inf => cases hx
  | fin s m =>
    cases y with
    | nan | inf => cases hy
    | fin t n => exact f.isNumber_round _ _ _

/-- The powers of two up to 2^200 are finite binary64 values: room enough for the sums and products of a tap. -/
theorem Fmt.isValue_two_pow_binary64 (s : Bool) {k : Nat} (hk : k ≤ 200) :
    Fmt.IsValue .binary64 (.fin s (2 ^ k * Fmt.one .binary64)) := by
  have htop : 2 ^ 200 * Fmt.one .binary64 ≤ Fmt.maxMag .binary64 := Nat.le_of_ble_eq_true (by decide +kernel)
  have hle : 2 ^ k * Fmt.one .binary64 ≤ 2 ^ 200 * Fmt.one .binary64 :=
    Nat.mul_le_mul_right _ (Nat.pow_le_pow_right (by decide) hk)
  exact ⟨Nat.mul_comm _ _ ▸ (Fmt.representable_one _).mul_pow k, hle.trans htop⟩

/-- Rounding into binary64 does not pass `2 ^ k`. -/
theorem Fmt.within_round_binary64 (s : Bool) {k num den : Nat} (hk : k ≤ 200) (hd : 0 < den)
    (h : num ≤ 2 ^ k * Fmt.one .binary64 * den) : Fmt.Within .binary64 k (Fmt.round .binary64 s num den) := by
  obtain ⟨hrep, hmax⟩ := Fmt.isValue_two_pow_binary64 s hk
  obtain ⟨r, hr, hle⟩ := Fmt.round_le .binary64 s hd hrep hmax h
  exact ⟨s, r, hr, hle⟩

theorem Fmt.Within.add_binary64 {k : Nat} {x y : FVal} (hk : k < 200) (hx : Fmt.Within .binary64 k x)
    (hy : Fmt.Within .binary64 k y) : Fmt.Within .binary64 (k + 1) (Fmt.add .binary64 x y) := by
  obtain ⟨s, m, rfl, hm⟩ := hx
  obtain ⟨t, n, rfl, hn⟩ := hy
  obtain ⟨u, num, hsum, hnum⟩ := Fmt.add_fin_eq_round .binary64 s t m n
  rw [hsum]
  exact Fmt.within_round_binary64 u hk Nat.one_pos (by rw [Nat.mul_one, Nat.pow_succ, Nat.mul_right_comm]; omega)

theorem Fmt.Within.mul_binary64 {j k : Nat} {x y : FVal} (hjk : j + k ≤ 200) (hx : Fmt.Within .binary64 j x)
    (hy : Fmt.Within .binary64 k y) : Fmt.Within .binary64 (j + k) (Fmt.mul .binary64 x y) := by
  obtain ⟨s, m, rfl, hm⟩ := hx
  obtain ⟨t, n, rfl, hn⟩ := hy
  refine Fmt.within_round_binary64 _ hjk (Fmt.one_pos _) ?_
  calc m * n ≤ 2 ^ j * Fmt.one .binary64 * (2 ^ k * Fmt.one .binary64) := Nat.mul_le_mul hm hn
    _ = 2 ^ (j + k) * Fmt.one .binary64 * Fmt.one .binary64 := by rw [Nat.pow_add]; ring

theorem Fmt.within_kHalf (f : Fmt) : f.Within 0 f.kHalf :=
  ⟨false, f.half, f.kHalf_eq, by have := f.one_eq_two_mul_half; omega⟩

/-- A finite sample is at most 2^128 in magnitude, and widens to binary64 exactly. -/
theorem Fmt.within_widen {w : Sample} (h : (sampleVal w).isFinite = true) : Fmt.Within .binary64 128 (Fmt.widen .binary64 w) := by
  have hval : Fmt.IsValue .binary32 (sampleVal w) := Fmt.isValue_unpack _ _
  change Fmt.Within .binary64 128 (Fmt.convert .binary32 .binary64 (sampleVal w))
  generalize sampleVal w = x at h hval ⊢
  cases x with
  | nan | inf => cases h
  | fin s m =>
    have htop : Fmt.maxMag .binary32 ≤ 2 ^ 128 * Fmt.one .binary32 := Nat.le_of_ble_eq_true (by decide +kernel)
    refine ⟨s, m * 2 ^ 925, Fmt.convert_binary32_binary64 hval, ?_⟩
    calc m * 2 ^ 925 ≤ 2 ^ 128 * Fmt.one .binary32 * 2 ^ 925 := Nat.mul_le_mul_right _ (hval.2.trans htop)
      _ = 2 ^ 128 * Fmt.one .binary64 := by
        rw [Fmt.one_binary64, Nat.mul_assoc, Nat.mul_comm (Fmt.one .binary32)]

/-- Narrowing rounds a number to a number. -/
theorem Fmt.isNumber_narrowVal (f : Fmt) {x : FVal} (h : x.isNumber = true) : (f.narrowVal x).isNumber = true := by
  unfold Fmt.narrowVal
  cases x with
  | nan => cases h
  | inf => rfl
  | fin s m =>
    simp only [Fmt.convert]
    split
    · rfl
    · exact Fmt.isNumber_round _ _ _ _

/-- The sample word narrowed from a value of F has the value rounded to binary32. -/
theorem Fmt.sampleVal_narrow (f : Fmt) (raw : BitVec 64) {x : FVal} (hx : f.IsValue x) :
    sampleVal (f.narrow raw x) = f.narrowVal x := by
  have hval : Fmt.IsValue .binary32 (f.narrowVal x) := Fmt.isValue_convert f .binary32 hx
  have hfits : ((Fmt.pack .binary32 raw (f.narrowVal x)).setWidth 32).setWidth 64 = Fmt.pack .binary32 raw (f.narrowVal x) :=
    Fmt.fits_pack .binary32 raw hval
  rw [sampleVal, Fmt.narrow, hfits, Fmt.unpack_pack _ _ hval]

/-- The floor of a position up to `2 ^ k` in magnitude is up to `2 ^ k` in magnitude. -/
theorem Fmt.natAbs_floorFin_le (f : Fmt) (s : Bool) {k mag : Nat} (h : mag ≤ 2 ^ k * f.one) :
    (f.floorFin s mag).natAbs ≤ 2 ^ k := by
  have hone := f.one_pos
  unfold Fmt.floorFin
  split
  · rw [Int.natAbs_neg, Int.natAbs_natCast]
    exact Nat.le_of_lt_succ ((Nat.div_lt_iff_lt_mul hone).2 (by rw [Nat.succ_mul]; omega))
  · rw [Int.natAbs_natCast]
    exact Nat.div_le_of_le_mul (by rwa [Nat.mul_comm])

namespace Machine

/-! The sample step (R106 to R109) -/

/-- Between finite words RB.EVALUATE is finite: its weights are at most 2^29 and the words at most 2^128. -/
theorem Memory.within_rbEvaluate {m : Memory} (hm : ∀ i, (sampleVal (m.memRead i)).isFinite = true) {pos e : FVal}
    (hpos : Fmt.Within .binary64 27 pos) (he : m.rbEvaluate .binary64 pos = some e) : Fmt.Within .binary64 158 e := by
  obtain ⟨s, mag, rfl, hmag⟩ := hpos
  cases he
  have hfloor : Fmt.Within .binary64 27 (Fmt.ofInt .binary64 (Fmt.floorFin .binary64 s mag)) :=
    Fmt.within_ofInt _ (by decide) (Fmt.natAbs_floorFin_le _ s hmag)
  have hfrac := Fmt.Within.add (k := 27) (by decide) ⟨s, mag, rfl, hmag⟩ hfloor.neg
  have hrest := Fmt.Within.add (k := 28) (by decide) ((Fmt.within_kOne .binary64).mono (by decide)) hfrac.neg
  have h0 := hrest.mul_binary64 (by decide) (Fmt.within_widen (hm (Fmt.floorFin .binary64 s mag)))
  have h1 := hfrac.mul_binary64 (by decide) (Fmt.within_widen (hm (Fmt.floorFin .binary64 s mag + 1)))
  exact h0.add_binary64 (by decide) (h1.mono (by decide))

/-- The tap of a ring buffer of finite words is finite. -/
theorem State.tap_isFinite {s : State} (hfmt : s.fmt = .binary64) (hd : s.DelayInRange)
    (hm : ∀ i, (sampleVal (s.rb.memRead i)).isFinite = true) {tap : FVal} (ht : s.tap s.readPosition = some tap) :
    tap.isFinite = true := by
  have hpos := State.readPosition_within hd
  rw [hfmt] at hpos
  have hnext : Fmt.Within .binary64 27 (Fmt.add .binary64 s.readPosition (Fmt.kOne .binary64)) :=
    hpos.add (by decide) ((Fmt.within_kOne .binary64).mono (by decide))
  unfold State.tap at ht
  rw [hfmt] at ht
  split at ht
  · rename_i e1 e2 h1 h2
    cases ht
    have h1' := (Fmt.within_kHalf .binary64).mul_binary64 (by decide)
      (Memory.within_rbEvaluate hm (hpos.mono (by decide)) h1)
    have h2' := (Fmt.within_kHalf .binary64).mul_binary64 (by decide) (Memory.within_rbEvaluate hm hnext h2)
    exact (h1'.add_binary64 (by decide) h2').isFinite
  · cases ht

theorem State.isValue_mix (s : State) (x tap : FVal) : s.fmt.IsValue (s.mix x tap) := s.fmt.isValue_add _ _

/-- A finite input mixed with a finite tap times a finite feedback is a number. -/
theorem State.isNumber_mix {s : State} {x tap : FVal} (hx : x.isFinite = true) (ht : tap.isFinite = true)
    (hfb : (s.fval s.smoothedFeedback).isFinite = true) : (s.mix x tap).isNumber = true :=
  s.fmt.isNumber_add hx (s.fmt.isNumber_mul hfb ht)

/-- The word step g makes of a number is no NaN. -/
theorem State.sampleVal_outputWord_ne_nan {s : State} {o : FVal} (hv : s.fmt.IsValue o) (ho : o.isNumber = true) :
    sampleVal (s.outputWord o) ≠ .nan := by
  rw [State.outputWord, Fmt.sampleVal_narrow _ _ hv]
  exact FVal.isNumber_iff_ne_nan.1 (s.fmt.isNumber_narrowVal ho)

/-- Settles O36: after steps a to c the tap and the feedback are finite, so the mix is a number, and it narrows to one. -/
theorem finiteInputsMakeNoNaN : Obligations.FiniteInputsMakeNoNaN := by
  intro s t x rest hinv hs hfmt hsin hx hm h
  rcases sampleStep_cases h with ⟨hnil, -⟩ | ⟨x', rest', y, hx', hy, rfl⟩
  · rw [hsin] at hnil
    cases hnil
  · obtain ⟨rfl, rfl⟩ := List.cons.inj (hsin.symm.trans hx')
    obtain ⟨tap, htap, rfl⟩ := Option.map_eq_some_iff.1 hy
    have hfin : tap.isFinite = true :=
      State.tap_isFinite (s := s.smoothed) hfmt (hinv.smoothed.delayInRange hs) hm htap
    have hin : (s.fmt.widen x).isFinite = true := by
      rw [hfmt]
      exact (Fmt.within_widen hx).isFinite
    have hmix := State.isNumber_mix (s := s.smoothed) hin hfin (hinv.smoothed.feedbackFinite hs)
    exact ⟨_, by simp, State.sampleVal_outputWord_ne_nan (State.isValue_mix _ _ _) hmix⟩

end Machine

end Sys2Proof
end

section
/-! SUPPORT. Proofs about power-on reset (R180, R181): the default parameters meet R5 whatever the OPEN targets are, and both the
state after power-on and RST in any state are quiet. A quiescent block with no input asserted holds (R192 a). -/

namespace Sys2Proof

/-! The default parameters (R5) -/

/-- Setting the OPEN targets to values that meet R5's conditions on them keeps the parameters valid. -/
theorem Params.valid_setTargets {p : Params} {fb fq : FWord} (hp : p.floorValid = true)
    (hfb : (p.arithFmt.unpack fb).isFinite = true) (hfq : p.frequencyOk fq = true) :
    ({ p with resetFeedbackTarget := fb, resetFrequencyTarget := fq } : Params).valid = true :=
  Bool.and_eq_true_iff.2 ⟨Bool.and_eq_true_iff.2 ⟨hp, hfb⟩, hfq⟩

/-- R5's default FREQ_FLOOR, 1.0, is positive and finite, and SR_MAX over it is the largest delay itself. -/
theorem Params.base_floorValid : Params.base.floorValid = true := by decide +kernel

/-- The default parameters are valid for all values of the OPEN targets: one out of R5's condition falls back on its base value. -/
theorem Params.standard_valid : Params.standard.valid = true := by
  refine Params.valid_setTargets (p := Params.base) Params.base_floorValid ?feedback ?frequency
  case feedback =>
    split
    · assumption
    · decide +kernel
  case frequency =>
    split
    · assumption
    · decide +kernel

namespace Machine

/-! After power-on reset (R180, R181) -/

/-- Settles O38: the parameters are valid, RB lists nothing, and every clause of a session or of a block is about another state. -/
theorem invHoldsAtReset : Obligations.InvHoldsAtReset where
  paramsValid := Params.standard_valid
  ringWf := State.reset_rb_wf
  faultCode := show 0x00#8 ≤ 0x04#8 by decide
  seqBetween := ⟨Seq.noConfusion, Seq.noConfusion⟩
  blockInSession := fun hne => absurd rfl hne
  loopOpen := Seq.noConfusion
  loopClosed := Seq.noConfusion
  shutdownRecorded := Session.noConfusion
  rateInRange := Session.noConfusion
  ringFilled := Session.noConfusion
  feedbackFinite := Session.noConfusion
  delayInRange := Session.noConfusion

/-- STATUS is zero in IDLE with SEQ READY, no message pending and no fault (R32). -/
theorem State.status_eq_zero {s : State} (hs : s.session = .idle) (hq : s.seq = .ready) (hfb : s.mbxFb.pending = false)
    (hfq : s.mbxFq.pending = false) (hf : s.fault = 0x00#8) : s.status = 0x00000000#32 := by
  rw [State.status, State.busy, hs, hq, hfb, hfq, hf]
  decide

/-- Settles O53: STATUS is zero by its fields, and an IDLE block that is READY accepts on both ports. -/
theorem resetState : Obligations.ResetState :=
  ⟨rfl, rfl, rfl, rfl, rfl, State.status_eq_zero rfl rfl rfl rfl rfl, acceptsCmd_of_ready Session.noConfusion rfl, rfl⟩

/-! RST (R180) -/

/-- Settles O52: the turn is `powerOn`, which leaves the ports' words and the rest of the schedule. -/
theorem resetIsTaken : Obligations.ResetIsTaken := by
  intro s hturn
  exact ⟨s.passTurn.powerOn, step_of_resetTurn hturn, State.status_eq_zero rfl rfl rfl rfl rfl, rfl, rfl, rfl⟩

/-! A run's normal end (R192 a) -/

/-- With no turn scheduled, passing the turn changes nothing. -/
theorem State.passTurn_of_turns_nil {s : State} (h : s.turns = []) : s.passTurn = s := by
  rw [State.passTurn, h, List.tail_nil, ← h]

/-- Settles O56: the default turn is the Engine's, and its READY turn finds no word to accept. -/
theorem quiescentStays : Obligations.QuiescentStays := by
  rintro s ⟨hq, hcmd, hctl, hlive⟩ hturns
  have hturn : s.turn = .engine := by simp [State.turn, hturns, hctl]
  calc step s = s.passTurn.engineStep := step_of_engineTurn hturn
    _ = s.engineStep := by rw [State.passTurn_of_turns_nil hturns]
    _ = s.acceptStep := engineStep_of_ready hlive hq
    _ = .next s := acceptStep_held (.inl hcmd)

end Machine

end Sys2Proof
end
